-- ==== Sys2Proof/Word.lean ====
section
/-! DEFINITION. The word types of the machine: every value is an unsigned integer of a fixed width (R5, R8). -/

namespace Sys2Proof

/-- A byte: a memory cell, a general register or a timer (R21, R27, R60). -/
abbrev Byte := BitVec 8

/-- A 12-bit address: a memory address, I, PC or a stack entry (R23, R24, R25, R60). -/
abbrev Addr := BitVec 12

/-- The index of a general register V0..VF, or of a key 0x0..0xF (R21, R31). -/
abbrev Reg := BitVec 4

/-- A 4-bit immediate: the row count of Dxyn (R81). -/
abbrev Nibble := BitVec 4

/-- A 16-bit opcode word (R80). -/
abbrev Word := BitVec 16

/-- The register VF, which doubles as the flag register (R22). -/
abbrev regF : Reg := 0xF#4

/-- The register V0 (R128). -/
abbrev reg0 : Reg := 0#4

end Sys2Proof
end

