-- ==== Sys2Proof/Machine/Flags.lean ====
section
/-! DEFINITION. The values that the arithmetic, shift and draw instructions write into VF (R22, R140). -/

namespace Sys2Proof.Machine

/-- A flag value: 1 when the condition holds, else 0. -/
def flagByte (c : Bool) : Byte := if c then 1#8 else 0#8

/-- Carry of an addition: 1 exactly when the unsigned sum exceeds 255 (R140, R147). -/
def carryFlag (a b : Byte) : Byte := flagByte (decide (a.toNat + b.toNat > 255))

/-- Not-borrow of the subtraction `a - b`: 0 exactly when a < b as unsigned numbers (R140, R148, R150). -/
def notBorrowFlag (a b : Byte) : Byte := flagByte (decide (¬ a.toNat < b.toNat))

/-- The bit that a right shift by one moves out: bit 0 (R149). -/
def shiftedOutRight (b : Byte) : Byte := b &&& 1#8

/-- The bit that a left shift by one moves out: bit 7 (R151). -/
def shiftedOutLeft (b : Byte) : Byte := (b >>> 7) &&& 1#8

/-- The collision flag of Dxyn: 1 if any pixel went from 1 to 0, else 0 (R193). -/
def collisionFlag (collided : Bool) : Byte := flagByte collided

end Sys2Proof.Machine
end

