-- ==== Sys2Proof/Syntax.lean ====
section
/-! DEFINITION. The abstract syntax: one constructor per row of the opcode table (R84, R85), in the table's order, with
exactly the fields its pattern names (R81). -/

namespace Sys2Proof

/-- The 34 instructions. `x` and `y` are register indices, `kk` a byte, `nnn` an address, `n` a row count (R81, R83). -/
inductive Instr where
  /-- 00E0 `CLS`: Clear the display (R192). -/
  | cls
  /-- 00EE `RET`: Return from subroutine (R121). -/
  | ret
  /-- 1nnn `JP addr`: Jump (R122). -/
  | jp (nnn : Addr)
  /-- 2nnn `CALL addr`: Call subroutine (R123). -/
  | call (nnn : Addr)
  /-- 3xkk `SE Vx, byte`: Skip if Vx = kk (R124). -/
  | seImm (x : Reg) (kk : Byte)
  /-- 4xkk `SNE Vx, byte`: Skip if Vx differs from kk (R125). -/
  | sneImm (x : Reg) (kk : Byte)
  /-- 5xy0 `SE Vx, Vy`: Skip if Vx = Vy (R126). -/
  | seReg (x : Reg) (y : Reg)
  /-- 6xkk `LD Vx, byte`: Load immediate (R141). -/
  | ldImm (x : Reg) (kk : Byte)
  /-- 7xkk `ADD Vx, byte`: Add immediate, no carry (R142). -/
  | addImm (x : Reg) (kk : Byte)
  /-- 8xy0 `LD Vx, Vy`: Register copy (R143). -/
  | ldReg (x : Reg) (y : Reg)
  /-- 8xy1 `OR Vx, Vy`: Bitwise OR (R144). -/
  | orReg (x : Reg) (y : Reg)
  /-- 8xy2 `AND Vx, Vy`: Bitwise AND (R145). -/
  | andReg (x : Reg) (y : Reg)
  /-- 8xy3 `XOR Vx, Vy`: Bitwise XOR (R146). -/
  | xorReg (x : Reg) (y : Reg)
  /-- 8xy4 `ADD Vx, Vy`: Add, VF = carry (R147). -/
  | addReg (x : Reg) (y : Reg)
  /-- 8xy5 `SUB Vx, Vy`: Subtract, VF = not borrow (R148). -/
  | subReg (x : Reg) (y : Reg)
  /-- 8xy6 `SHR Vx, Vy`: Shift right by one (R149). -/
  | shr (x : Reg) (y : Reg)
  /-- 8xy7 `SUBN Vx, Vy`: Reverse subtract, VF = not borrow (R150). -/
  | subn (x : Reg) (y : Reg)
  /-- 8xyE `SHL Vx, Vy`: Shift left by one (R151). -/
  | shl (x : Reg) (y : Reg)
  /-- 9xy0 `SNE Vx, Vy`: Skip if Vx differs from Vy (R127). -/
  | sneReg (x : Reg) (y : Reg)
  /-- Annn `LD I, addr`: Set the index register (R170). -/
  | ldI (nnn : Addr)
  /-- Bnnn `JP V0, addr`: Jump to nnn + V0 (R128). -/
  | jpV0 (nnn : Addr)
  /-- Cxkk `RND Vx, byte`: Random byte masked with kk (R152). -/
  | rnd (x : Reg) (kk : Byte)
  /-- Dxyn `DRW Vx, Vy, nibble`: Draw an n-row sprite from memory at I (R193). -/
  | drw (x : Reg) (y : Reg) (n : Nibble)
  /-- Ex9E `SKP Vx`: Skip if key Vx is pressed (R213). -/
  | skp (x : Reg)
  /-- ExA1 `SKNP Vx`: Skip if key Vx is not pressed (R214). -/
  | sknp (x : Reg)
  /-- Fx07 `LD Vx, DT`: Read the delay timer (R210). -/
  | ldVxDT (x : Reg)
  /-- Fx0A `LD Vx, K`: Wait for a key press (R215). -/
  | ldVxK (x : Reg)
  /-- Fx15 `LD DT, Vx`: Set the delay timer (R211). -/
  | ldDTVx (x : Reg)
  /-- Fx18 `LD ST, Vx`: Set the sound timer (R212). -/
  | ldSTVx (x : Reg)
  /-- Fx1E `ADD I, Vx`: Add a register to I (R171). -/
  | addI (x : Reg)
  /-- Fx29 `LD F, Vx`: Point I at a font glyph (R172). -/
  | ldF (x : Reg)
  /-- Fx33 `LD B, Vx`: Store binary-coded decimal (R173). -/
  | ldB (x : Reg)
  /-- Fx55 `LD [I], Vx`: Store registers V0..Vx (R174). -/
  | storeRegs (x : Reg)
  /-- Fx65 `LD Vx, [I]`: Load registers V0..Vx (R175). -/
  | loadRegs (x : Reg)
deriving DecidableEq, Repr

end Sys2Proof
end

