-- ==== Sys2Proof/Decode.lean ====
section
/-! DEFINITION. The decoder (R80 to R89), total on any bytes and rejecting by name; after it the encoder, the table of
masks and matches of R85, and the host's view of the decoder on a table word. -/

namespace Sys2Proof

/-- Why bytes are not an instruction. -/
inductive DecodeError where
  /-- Fewer than the two bytes of an instruction (R80). The machine's fetch never gives this. -/
  | truncated
  /-- A word that matches no row of R85: an unknown opcode, which the cycle runs as a no-op and reports (R87, R106). -/
  | unknownOpcode (op : Word)
deriving DecidableEq, Repr

/-- `op[15:12]`, which selects the family (R81, R84). -/
def opFamily (op : Word) : BitVec 4 := op.extractLsb' 12 4

/-- `x = op[11:8]` (R7, R81). -/
def opX (op : Word) : Reg := op.extractLsb' 8 4

/-- `y = op[7:4]` (R7, R81). -/
def opY (op : Word) : Reg := op.extractLsb' 4 4

/-- `n = op[3:0]` (R7, R81). -/
def opN (op : Word) : Nibble := op.extractLsb' 0 4

/-- `kk = op[7:0]` (R7, R81). -/
def opKK (op : Word) : Byte := op.extractLsb' 0 8

/-- `nnn = op[11:0]` (R7, R81). -/
def opNNN (op : Word) : Addr := op.extractLsb' 0 12

/-- Family 0x8: the low nibble selects the operation (R84). -/
def decodeFamily8 (op : Word) : Except DecodeError Instr :=
  match (opN op).toNat with
  | 0x0 => .ok (.ldReg (opX op) (opY op))
  | 0x1 => .ok (.orReg (opX op) (opY op))
  | 0x2 => .ok (.andReg (opX op) (opY op))
  | 0x3 => .ok (.xorReg (opX op) (opY op))
  | 0x4 => .ok (.addReg (opX op) (opY op))
  | 0x5 => .ok (.subReg (opX op) (opY op))
  | 0x6 => .ok (.shr (opX op) (opY op))
  | 0x7 => .ok (.subn (opX op) (opY op))
  | 0xE => .ok (.shl (opX op) (opY op))
  | _ => .error (.unknownOpcode op)

/-- Family 0xE: the low byte selects the operation (R84). -/
def decodeFamilyE (op : Word) : Except DecodeError Instr :=
  match (opKK op).toNat with
  | 0x9E => .ok (.skp (opX op))
  | 0xA1 => .ok (.sknp (opX op))
  | _ => .error (.unknownOpcode op)

/-- Family 0xF: the low byte selects the operation (R84). -/
def decodeFamilyF (op : Word) : Except DecodeError Instr :=
  match (opKK op).toNat with
  | 0x07 => .ok (.ldVxDT (opX op))
  | 0x0A => .ok (.ldVxK (opX op))
  | 0x15 => .ok (.ldDTVx (opX op))
  | 0x18 => .ok (.ldSTVx (opX op))
  | 0x1E => .ok (.addI (opX op))
  | 0x29 => .ok (.ldF (opX op))
  | 0x33 => .ok (.ldB (opX op))
  | 0x55 => .ok (.storeRegs (opX op))
  | 0x65 => .ok (.loadRegs (opX op))
  | _ => .error (.unknownOpcode op)

/-- Decode one opcode word by the map of R84. Fixed digits are matched exactly (R85), and every word outside the map is an
unknown opcode (R87, R88). -/
def decodeWord (op : Word) : Except DecodeError Instr :=
  match (opFamily op).toNat with
  | 0x0 => if op = 0x00E0#16 then .ok .cls else if op = 0x00EE#16 then .ok .ret else .error (.unknownOpcode op)
  | 0x1 => .ok (.jp (opNNN op))
  | 0x2 => .ok (.call (opNNN op))
  | 0x3 => .ok (.seImm (opX op) (opKK op))
  | 0x4 => .ok (.sneImm (opX op) (opKK op))
  | 0x5 => if opN op = 0x0#4 then .ok (.seReg (opX op) (opY op)) else .error (.unknownOpcode op)
  | 0x6 => .ok (.ldImm (opX op) (opKK op))
  | 0x7 => .ok (.addImm (opX op) (opKK op))
  | 0x8 => decodeFamily8 op
  | 0x9 => if opN op = 0x0#4 then .ok (.sneReg (opX op) (opY op)) else .error (.unknownOpcode op)
  | 0xA => .ok (.ldI (opNNN op))
  | 0xB => .ok (.jpV0 (opNNN op))
  | 0xC => .ok (.rnd (opX op) (opKK op))
  | 0xD => .ok (.drw (opX op) (opY op) (opN op))
  | 0xE => decodeFamilyE op
  | 0xF => decodeFamilyF op
  | _ => .error (.unknownOpcode op)

/-- The opcode word of two bytes: big-endian, the byte at the lower address is bits 15:8 (R62). -/
def wordOfBytes (hi lo : Byte) : Word := hi ++ lo

/-- Decode the instruction at the head of a byte sequence, with the bytes after it. One length, two bytes (R80). -/
def decode : List Byte → Except DecodeError (Instr × List Byte)
  | hi :: lo :: rest => (decodeWord (wordOfBytes hi lo)).map fun i => (i, rest)
  | _ => .error .truncated

/-- The word of an instruction, from the pattern of its row (R81, R85). -/
def encode : Instr → Word
  | .cls => 0x00E0#16
  | .ret => 0x00EE#16
  | .jp nnn => 0x1#4 ++ nnn
  | .call nnn => 0x2#4 ++ nnn
  | .seImm x kk => 0x3#4 ++ x ++ kk
  | .sneImm x kk => 0x4#4 ++ x ++ kk
  | .seReg x y => 0x5#4 ++ x ++ y ++ 0x0#4
  | .ldImm x kk => 0x6#4 ++ x ++ kk
  | .addImm x kk => 0x7#4 ++ x ++ kk
  | .ldReg x y => 0x8#4 ++ x ++ y ++ 0x0#4
  | .orReg x y => 0x8#4 ++ x ++ y ++ 0x1#4
  | .andReg x y => 0x8#4 ++ x ++ y ++ 0x2#4
  | .xorReg x y => 0x8#4 ++ x ++ y ++ 0x3#4
  | .addReg x y => 0x8#4 ++ x ++ y ++ 0x4#4
  | .subReg x y => 0x8#4 ++ x ++ y ++ 0x5#4
  | .shr x y => 0x8#4 ++ x ++ y ++ 0x6#4
  | .subn x y => 0x8#4 ++ x ++ y ++ 0x7#4
  | .shl x y => 0x8#4 ++ x ++ y ++ 0xE#4
  | .sneReg x y => 0x9#4 ++ x ++ y ++ 0x0#4
  | .ldI nnn => 0xA#4 ++ nnn
  | .jpV0 nnn => 0xB#4 ++ nnn
  | .rnd x kk => 0xC#4 ++ x ++ kk
  | .drw x y n => 0xD#4 ++ x ++ y ++ n
  | .skp x => 0xE#4 ++ x ++ 0x9E#8
  | .sknp x => 0xE#4 ++ x ++ 0xA1#8
  | .ldVxDT x => 0xF#4 ++ x ++ 0x07#8
  | .ldVxK x => 0xF#4 ++ x ++ 0x0A#8
  | .ldDTVx x => 0xF#4 ++ x ++ 0x15#8
  | .ldSTVx x => 0xF#4 ++ x ++ 0x18#8
  | .addI x => 0xF#4 ++ x ++ 0x1E#8
  | .ldF x => 0xF#4 ++ x ++ 0x29#8
  | .ldB x => 0xF#4 ++ x ++ 0x33#8
  | .storeRegs x => 0xF#4 ++ x ++ 0x55#8
  | .loadRegs x => 0xF#4 ++ x ++ 0x65#8

/-- The two bytes of a word as memory holds them, the high byte at the lower address (R62). -/
def bytesOfWord (op : Word) : List Byte := [op.extractLsb' 8 8, op.extractLsb' 0 8]

/-- The two bytes of an instruction. -/
def encodeBytes (i : Instr) : List Byte := bytesOfWord (encode i)

/-- A row of R85: a word `op` is this row's instruction when `op & mask = match`. -/
structure OpcodeRow where
  mnemonic : String
  mask : Word
  pattern : Word
deriving DecidableEq, Repr

/-- `op & mask = match` (R85). -/
def OpcodeRow.matchesWord (r : OpcodeRow) (op : Word) : Bool := op &&& r.mask == r.pattern

/-- A piece of the table of R85. -/
def rows0to5 : List OpcodeRow := [
  ⟨"CLS", 0xFFFF#16, 0x00E0#16⟩,
  ⟨"RET", 0xFFFF#16, 0x00EE#16⟩,
  ⟨"JP_addr", 0xF000#16, 0x1000#16⟩,
  ⟨"CALL_addr", 0xF000#16, 0x2000#16⟩,
  ⟨"SE_Vx__byte", 0xF000#16, 0x3000#16⟩,
  ⟨"SNE_Vx__byte", 0xF000#16, 0x4000#16⟩,
  ⟨"SE_Vx__Vy", 0xF00F#16, 0x5000#16⟩]

/-- A piece of the table of R85. -/
def rows6to7 : List OpcodeRow := [
  ⟨"LD_Vx__byte", 0xF000#16, 0x6000#16⟩,
  ⟨"ADD_Vx__byte", 0xF000#16, 0x7000#16⟩]

/-- A piece of the table of R85. -/
def rows8 : List OpcodeRow := [
  ⟨"LD_Vx__Vy", 0xF00F#16, 0x8000#16⟩,
  ⟨"OR_Vx__Vy", 0xF00F#16, 0x8001#16⟩,
  ⟨"AND_Vx__Vy", 0xF00F#16, 0x8002#16⟩,
  ⟨"XOR_Vx__Vy", 0xF00F#16, 0x8003#16⟩,
  ⟨"ADD_Vx__Vy", 0xF00F#16, 0x8004#16⟩,
  ⟨"SUB_Vx__Vy", 0xF00F#16, 0x8005#16⟩,
  ⟨"SHR_Vx__Vy", 0xF00F#16, 0x8006#16⟩,
  ⟨"SUBN_Vx__Vy", 0xF00F#16, 0x8007#16⟩,
  ⟨"SHL_Vx__Vy", 0xF00F#16, 0x800E#16⟩]

/-- A piece of the table of R85. -/
def rows9toE : List OpcodeRow := [
  ⟨"SNE_Vx__Vy", 0xF00F#16, 0x9000#16⟩,
  ⟨"LD_I__addr", 0xF000#16, 0xA000#16⟩,
  ⟨"JP_V0__addr", 0xF000#16, 0xB000#16⟩,
  ⟨"RND_Vx__byte", 0xF000#16, 0xC000#16⟩,
  ⟨"DRW_Vx__Vy__nibble", 0xF000#16, 0xD000#16⟩,
  ⟨"SKP_Vx", 0xF0FF#16, 0xE09E#16⟩,
  ⟨"SKNP_Vx", 0xF0FF#16, 0xE0A1#16⟩]

/-- A piece of the table of R85. -/
def rowsF : List OpcodeRow := [
  ⟨"LD_Vx__DT", 0xF0FF#16, 0xF007#16⟩,
  ⟨"LD_Vx__K", 0xF0FF#16, 0xF00A#16⟩,
  ⟨"LD_DT__Vx", 0xF0FF#16, 0xF015#16⟩,
  ⟨"LD_ST__Vx", 0xF0FF#16, 0xF018#16⟩,
  ⟨"ADD_I__Vx", 0xF0FF#16, 0xF01E#16⟩,
  ⟨"LD_F__Vx", 0xF0FF#16, 0xF029#16⟩,
  ⟨"LD_B__Vx", 0xF0FF#16, 0xF033#16⟩,
  ⟨"LD__I___Vx", 0xF0FF#16, 0xF055#16⟩,
  ⟨"LD_Vx___I", 0xF0FF#16, 0xF065#16⟩]

/-- The match and mask table of R85, in its order. -/
def opcodeTable : List OpcodeRow := rows0to5 ++ rows6to7 ++ rows8 ++ rows9toE ++ rowsF

/-- The row of R85 that an instruction belongs to. -/
def Instr.row : Instr → OpcodeRow
  | .cls => ⟨"CLS", 0xFFFF#16, 0x00E0#16⟩
  | .ret => ⟨"RET", 0xFFFF#16, 0x00EE#16⟩
  | .jp _ => ⟨"JP_addr", 0xF000#16, 0x1000#16⟩
  | .call _ => ⟨"CALL_addr", 0xF000#16, 0x2000#16⟩
  | .seImm _ _ => ⟨"SE_Vx__byte", 0xF000#16, 0x3000#16⟩
  | .sneImm _ _ => ⟨"SNE_Vx__byte", 0xF000#16, 0x4000#16⟩
  | .seReg _ _ => ⟨"SE_Vx__Vy", 0xF00F#16, 0x5000#16⟩
  | .ldImm _ _ => ⟨"LD_Vx__byte", 0xF000#16, 0x6000#16⟩
  | .addImm _ _ => ⟨"ADD_Vx__byte", 0xF000#16, 0x7000#16⟩
  | .ldReg _ _ => ⟨"LD_Vx__Vy", 0xF00F#16, 0x8000#16⟩
  | .orReg _ _ => ⟨"OR_Vx__Vy", 0xF00F#16, 0x8001#16⟩
  | .andReg _ _ => ⟨"AND_Vx__Vy", 0xF00F#16, 0x8002#16⟩
  | .xorReg _ _ => ⟨"XOR_Vx__Vy", 0xF00F#16, 0x8003#16⟩
  | .addReg _ _ => ⟨"ADD_Vx__Vy", 0xF00F#16, 0x8004#16⟩
  | .subReg _ _ => ⟨"SUB_Vx__Vy", 0xF00F#16, 0x8005#16⟩
  | .shr _ _ => ⟨"SHR_Vx__Vy", 0xF00F#16, 0x8006#16⟩
  | .subn _ _ => ⟨"SUBN_Vx__Vy", 0xF00F#16, 0x8007#16⟩
  | .shl _ _ => ⟨"SHL_Vx__Vy", 0xF00F#16, 0x800E#16⟩
  | .sneReg _ _ => ⟨"SNE_Vx__Vy", 0xF00F#16, 0x9000#16⟩
  | .ldI _ => ⟨"LD_I__addr", 0xF000#16, 0xA000#16⟩
  | .jpV0 _ => ⟨"JP_V0__addr", 0xF000#16, 0xB000#16⟩
  | .rnd _ _ => ⟨"RND_Vx__byte", 0xF000#16, 0xC000#16⟩
  | .drw _ _ _ => ⟨"DRW_Vx__Vy__nibble", 0xF000#16, 0xD000#16⟩
  | .skp _ => ⟨"SKP_Vx", 0xF0FF#16, 0xE09E#16⟩
  | .sknp _ => ⟨"SKNP_Vx", 0xF0FF#16, 0xE0A1#16⟩
  | .ldVxDT _ => ⟨"LD_Vx__DT", 0xF0FF#16, 0xF007#16⟩
  | .ldVxK _ => ⟨"LD_Vx__K", 0xF0FF#16, 0xF00A#16⟩
  | .ldDTVx _ => ⟨"LD_DT__Vx", 0xF0FF#16, 0xF015#16⟩
  | .ldSTVx _ => ⟨"LD_ST__Vx", 0xF0FF#16, 0xF018#16⟩
  | .addI _ => ⟨"ADD_I__Vx", 0xF0FF#16, 0xF01E#16⟩
  | .ldF _ => ⟨"LD_F__Vx", 0xF0FF#16, 0xF029#16⟩
  | .ldB _ => ⟨"LD_B__Vx", 0xF0FF#16, 0xF033#16⟩
  | .storeRegs _ => ⟨"LD__I___Vx", 0xF0FF#16, 0xF055#16⟩
  | .loadRegs _ => ⟨"LD_Vx___I", 0xF0FF#16, 0xF065#16⟩

/-- The instruction this decoder reads from the table word `w` of `nbits` bits; bits from `nbits` on are 0. The word's bits
15:8 are the byte at the lower address (R62). -/
def decodeTableWord (nbits w : Nat) : Option Instr :=
  match decode (bytesOfWord (BitVec.ofNat 16 (w % 2 ^ nbits))) with
  | .ok (i, _) => some i
  | .error _ => none

end Sys2Proof
end

