-- ==== Sys2Proof/Config.lean ====
section
/-! DEFINITION. The parameters of the block: the fixed values of R5, the open ones of R6, and the free value that stands
for the environment's random draw. -/

namespace Sys2Proof
namespace Config

/-- Number of memory cells (R5, R60). -/
abbrev memSize : Nat := 4096

/-- Entries the call stack can hold (R5, R25). -/
abbrev stackDepth : Nat := 16

/-- Columns of the framebuffer (R5, R29). -/
abbrev fbWidth : Nat := 64

/-- Rows of the framebuffer (R5, R29). -/
abbrev fbHeight : Nat := 32

/-- Where the font table lies (R5, R66). -/
abbrev fontBase : Nat := 0x050

/-- Bytes of the font table: 16 glyphs of 5 bytes (R5, R67). -/
abbrev fontSize : Nat := 80

/-- Where programs are loaded, and PC after reset (R5, R66). -/
abbrev progBase : Nat := 0x200

/-- The longest ROM that load_rom accepts (R5, R69). -/
abbrev maxRom : Nat := 3584

/-- FREE VALUE (assumption log 5). The byte that stands for the `k`-th draw of `random_byte()` which the host did not
supply itself. The spec puts it under no law: no generator, seed or distribution (R152, ID2). -/
opaque randomByte : Nat → Byte

end Config

/-- KEY_INDEX_POLICY (R6, R216): what Ex9E and ExA1 do when Vx is above 0xF. -/
inductive KeyIndexPolicy where
  /-- The key index is the low nibble of Vx (the spec's default). -/
  | mask
  /-- The instruction raises KeyIndexOutOfRange. -/
  | fault
deriving DecidableEq, Repr

/-- The parameters a block is built with and no operation writes (R6, R37). -/
structure Params where
  /-- FONT: the 80 bytes a hard reset writes at 0x050 (R67, R261). -/
  font : Vector Byte 80
  /-- What Ex9E and ExA1 do when Vx is above 0xF (R216). -/
  keyIndexPolicy : KeyIndexPolicy
deriving DecidableEq, Repr

/-- The compression of the snapshot, a parameter of the snapshot operations (R6, R275). -/
structure Codec where
  compress : List Byte → List Byte
  decompress : List Byte → Option (List Byte)

/-- The one law of R275: `Decompress(Compress(p)) = some p` for every p. -/
def Codec.Lawful (c : Codec) : Prop := ∀ p : List Byte, c.decompress (c.compress p) = some p

end Sys2Proof
end

