-- ==== Sys2Proof/Machine/Font.lean ====
section
/-! DEFINITION. The default FONT of R67. -/

namespace Sys2Proof.Machine

/-- The default font, glyph by glyph, 0 to F, five rows of one byte each (R67). PRESUMED: the spec marks these bytes as
general knowledge, not in its source (assumption log 2). -/
def fontGlyphs : List (List Byte) := [
  [0xF0#8, 0x90#8, 0x90#8, 0x90#8, 0xF0#8],
  [0x20#8, 0x60#8, 0x20#8, 0x20#8, 0x70#8],
  [0xF0#8, 0x10#8, 0xF0#8, 0x80#8, 0xF0#8],
  [0xF0#8, 0x10#8, 0xF0#8, 0x10#8, 0xF0#8],
  [0x90#8, 0x90#8, 0xF0#8, 0x10#8, 0x10#8],
  [0xF0#8, 0x80#8, 0xF0#8, 0x10#8, 0xF0#8],
  [0xF0#8, 0x80#8, 0xF0#8, 0x90#8, 0xF0#8],
  [0xF0#8, 0x10#8, 0x20#8, 0x40#8, 0x40#8],
  [0xF0#8, 0x90#8, 0xF0#8, 0x90#8, 0xF0#8],
  [0xF0#8, 0x90#8, 0xF0#8, 0x10#8, 0xF0#8],
  [0xF0#8, 0x90#8, 0xF0#8, 0x90#8, 0x90#8],
  [0xE0#8, 0x90#8, 0xE0#8, 0x90#8, 0xE0#8],
  [0xF0#8, 0x80#8, 0x80#8, 0x80#8, 0xF0#8],
  [0xE0#8, 0x90#8, 0x90#8, 0x90#8, 0xE0#8],
  [0xF0#8, 0x80#8, 0xF0#8, 0x80#8, 0xF0#8],
  [0xF0#8, 0x80#8, 0xF0#8, 0x80#8, 0x80#8]]

/-- The 80 bytes of the default font, glyph g at offset 5 * g (R66, R67). -/
def fontBytes : List Byte := fontGlyphs.flatten

/-- The default font as the parameter FONT (R6, R67). -/
def fontDefault : Vector Byte 80 := ⟨fontBytes.toArray, rfl⟩

end Sys2Proof.Machine
end

