-- ==== Sys2Proof/Machine/State.lean ====
section
/-! DEFINITION. The state of the block (R20 to R36) as plain data, the reasons a step could stop, and the state right after
construction. -/

namespace Sys2Proof.Machine

/-- Reasons the machine stops with a fault: none. The spec gives every cycle, halted and blocked ones included, a complete
effect on the state (R100 to R106, R234 to R236), so no step of this model ends here (safe: there is nothing to prove false
with). The faults the spec describes are `FaultState`, a field of State. -/
inductive Fault where
deriving DecidableEq, Repr

/-- Reasons the model gives an instruction no meaning. -/
inductive Refusal where
  /-- Raised by an arm of `exec` whose instruction has no meaning yet (safe). No arm of this model does. -/
  | notModelled (mnemonic : String)
deriving DecidableEq, Repr

/-- The wait-for-key state (R32). -/
inductive WaitState where
  /-- Not waiting. -/
  | idle
  /-- Waiting for a key; the key index goes to register `r`. -/
  | waiting (r : Reg)
deriving DecidableEq, Repr

/-- The fault state (R36). -/
inductive FaultState where
  /-- No fault: the core runs. -/
  | none
  /-- A CALL found the stack full (R234). -/
  | stackOverflow
  /-- An Ex9E or ExA1 found Vx above 0xF under KEY_INDEX_POLICY = fault (R235). -/
  | keyIndexOutOfRange
deriving DecidableEq, Repr

/-- Memory as a list of cells: addresses strictly rising, each cell differing from what an unlisted address reads as
(`Memory.background`, assumption log 1). -/
abbrev Memory := List Host.Cell

/-- The 64 x 32 grid of one-bit pixels, row by row from the top, columns left to right (R29). -/
abbrev Framebuffer := Vector (Vector Bool 64) 32

/-- The state of R20, and the model's own fields `params`, `draw` and `drawCount`. -/
structure State where
  /-- Memory, 4096 bytes (R35). -/
  mem : Memory
  /-- General registers V0..VF; VF is also the flag register (R21, R22). -/
  v : Vector Byte 16
  /-- Index register I (R23). -/
  i : Addr
  /-- Program counter (R24). -/
  pc : Addr
  /-- Call stack, oldest entry first; its depth sp is its length (R25). -/
  stack : List Addr
  /-- Delay timer (R27). -/
  delayTimer : Byte
  /-- Sound timer (R28). -/
  soundTimer : Byte
  /-- Framebuffer (R29). -/
  fb : Framebuffer
  /-- Draw flag, the document's dirty flag (R30). -/
  drawFlag : Bool
  /-- Keypad: key k is pressed (R31). -/
  keys : Vector Bool 16
  /-- Wait-for-key state (R32). -/
  wait : WaitState
  /-- Shift quirk: Vx, not Vy, is the shift source (R33). -/
  shiftQuirk : Bool
  /-- Memory quirk: Fx55 and Fx65 add x + 1 to I (R33). -/
  memQuirk : Bool
  /-- Retained ROM (R34). -/
  rom : Option (List Byte)
  /-- Fault state (R36). -/
  fault : FaultState
  /-- The model's own: the parameters the block was built with (R6, R37; assumption log 2, 3). -/
  params : Params
  /-- The model's own: the draw the host supplied with this `cycle(r)`, if it supplied one (R100; assumption log 5). -/
  draw : Option Byte
  /-- The model's own: how many draws Cxkk has taken; names the next free value (assumption log 5). -/
  drawCount : Nat
deriving DecidableEq, Repr

/-- The parameters at their defaults: the font of R67 and the policy `mask` of R216 (assumption log 2, 3). -/
def defaultParams : Params := { font := fontDefault, keyIndexPolicy := .mask }

/-- The block right after `construct` with default parameters and both quirks false: every register as R21 to R36 say, no
program loaded (R260, R261). The quirks and the model's own fields are design choices (assumption log 2 to 5). -/
def State.reset : State where
  mem := []
  v := Vector.replicate 16 0#8
  i := 0#12
  pc := 0x200#12
  stack := []
  delayTimer := 0#8
  soundTimer := 0#8
  fb := Vector.replicate 32 (Vector.replicate 64 false)
  drawFlag := true
  keys := Vector.replicate 16 false
  wait := .idle
  shiftQuirk := false
  memQuirk := false
  rom := none
  fault := .none
  params := defaultParams
  draw := none
  drawCount := 0

end Sys2Proof.Machine
end

