-- ==== Sys2Proof/Machine/Ops.lean ====
section
/-! DEFINITION. The named operations over memory, registers, stack, framebuffer and keypad, raising a fault, and the fetch.
Every instruction reads and writes the state through them. -/

namespace Sys2Proof.Machine

/-- What a meaning answers: a next state, a fault or a refusal. -/
abbrev Result := Host.Outcome State Fault Refusal

/-! ### Memory (R60, R61) -/

/-- What an unlisted address reads as: the content of memory after a hard reset with the default FONT (R35, R66, R67). -/
def Memory.background (a : Nat) : Byte :=
  if Config.fontBase ≤ a ∧ a < Config.fontBase + Config.fontSize then fontBytes.getD (a - Config.fontBase) 0#8 else 0#8

/-- The byte at an address below 4096. -/
def Memory.lookup : Memory → Nat → Byte
  | [], a => Memory.background a
  | (b, w) :: m, a => if a = b then w else Memory.lookup m a

/-- Drop the cell of an address: it then reads as an unlisted one. -/
def Memory.erase (m : Memory) (a : Nat) : Memory := m.filter fun c => decide (c.1 ≠ a)

/-- Put a cell before the first one with a higher address. -/
def Memory.insert : Memory → Nat → Byte → Memory
  | [], a, w => [(a, w)]
  | (b, u) :: m, a, w => if a < b then (a, w) :: (b, u) :: m else (b, u) :: Memory.insert m a w

/-- Set the byte at an address below 4096, keeping the canonical form: a value that an unlisted address reads as is not
listed. -/
def Memory.store (m : Memory) (a : Nat) (w : Byte) : Memory :=
  if w = Memory.background a then Memory.erase m a else Memory.insert (Memory.erase m a) a w

/-- `MemRead(a, 1)`: the byte at `a mod 4096`; never fails (R61). -/
def Memory.read (m : Memory) (a : Nat) : Byte := Memory.lookup m (a % Config.memSize)

/-- `MemWrite(a, 1, w)`: write a byte at `a mod 4096`; never fails (R61). -/
def Memory.write (m : Memory) (a : Nat) (w : Byte) : Memory := Memory.store m (a % Config.memSize) w

/-- Write a byte sequence at ascending addresses from `a` on (R69, R261, R265). -/
def Memory.writeBytes (m : Memory) (a : Nat) : List Byte → Memory
  | [] => m
  | w :: ws => Memory.writeBytes (Memory.write m a w) (a + 1) ws

/-- Zero every byte from 0x200 up (the first step of a soft reset, R262): an unlisted address there reads as 0. -/
def Memory.clearProgram (m : Memory) : Memory := m.filter fun c => decide (c.1 < Config.progBase)

/-- The cells from address `lo` up are in canonical form. -/
def Memory.wfFrom (lo : Nat) : Memory → Bool
  | [] => true
  | (a, w) :: m =>
    decide (lo ≤ a) && decide (a < Config.memSize) && decide (w ≠ Memory.background a) && Memory.wfFrom (a + 1) m

/-- The canonical form of memory: addresses strictly rising and below 4096, no cell equal to what an unlisted address reads
as. Equal memories are then equal lists. -/
def Memory.wf (m : Memory) : Bool := Memory.wfFrom 0 m

/-! ### Registers, I and PC (R21 to R24) -/

/-- `V[x]` (R9, R21). -/
def State.getV (s : State) (x : Reg) : Byte := s.v[x.toNat]'x.isLt

/-- `V[x] <- b` (R9, R21). No register is hardwired. -/
def State.setV (s : State) (x : Reg) (b : Byte) : State := { s with v := s.v.set x.toNat b x.isLt }

/-- `I <- a` (R9, R23). -/
def State.setI (s : State) (a : Addr) : State := { s with i := a }

/-- `PC <- a` (R9, R24). -/
def State.setPc (s : State) (a : Addr) : State := { s with pc := a }

/-- The skip primitive, `PC <- (PC + 2) mod 4096` (R120); the fetch's advance is the same (R104). -/
def State.skip (s : State) : State := s.setPc (s.pc + 2#12)

/-- Skip when a condition holds (R124 to R127, R213, R214). -/
def State.skipIf (s : State) (c : Bool) : State := if c then s.skip else s

/-- Replace memory. -/
def State.setMem (s : State) (m : Memory) : State := { s with mem := m }

/-! ### Call stack (R25, R26) -/

/-- `Push(a)`: append on top. The caller has checked that the stack is not full (R26). -/
def State.push (s : State) (a : Addr) : State := { s with stack := s.stack ++ [a] }

/-- The top entry, none on an empty stack. -/
def State.top? (s : State) : Option Addr := s.stack.getLast?

/-- Remove the top entry (R26). -/
def State.dropTop (s : State) : State := { s with stack := s.stack.dropLast }

/-! ### Timers, framebuffer, draw flag, keypad, wait state (R27 to R32) -/

/-- `delay_timer <- b` (R27). -/
def State.setDelay (s : State) (b : Byte) : State := { s with delayTimer := b }

/-- `sound_timer <- b` (R28). -/
def State.setSound (s : State) (b : Byte) : State := { s with soundTimer := b }

/-- `FB[px, py]` (R9, R29). -/
def Framebuffer.pixel (fb : Framebuffer) (px : Fin 64) (py : Fin 32) : Bool := (fb[py.1]'py.2)[px.1]'px.2

/-- `FB[px, py] <- b`. -/
def Framebuffer.setPixel (fb : Framebuffer) (px : Fin 64) (py : Fin 32) (b : Bool) : Framebuffer :=
  fb.set py.1 ((fb[py.1]'py.2).set px.1 b px.2) py.2

/-- Every pixel 0 (R29). -/
def Framebuffer.clear : Framebuffer := Vector.replicate 32 (Vector.replicate 64 false)

/-- Replace the framebuffer and set the draw flag, as CLS, Dxyn and both resets do (R30). -/
def State.setDisplay (s : State) (fb : Framebuffer) : State := { s with fb := fb, drawFlag := true }

/-- `Key(k) = 1` (R9, R31). -/
def State.key (s : State) (k : Reg) : Bool := s.keys[k.toNat]'k.isLt

/-- Set the wait state (R32). -/
def State.setWait (s : State) (w : WaitState) : State := { s with wait := w }

/-! ### Raising a fault (R234 to R236) -/

/-- Raise an error of the core: `fault` is set and nothing else changes; there is no vector, no saved address, no handler and
no return (R236, R239). PC keeps the fetch's advance, because it was made before the instruction ran (R234, R235). -/
def State.raise (s : State) (f : FaultState) : State := { s with fault := f }

/-! ### The random draw (R6, R100, R152; assumption log 5) -/

/-- Fill or empty the draw slot. -/
def State.setDraw (s : State) (d : Option Byte) : State := { s with draw := d }

/-- The draw `r` of this cycle: the host's byte where it gave one, else a free value. -/
def State.nextDraw (s : State) : Byte := s.draw.getD (Config.randomByte s.drawCount)

/-- The draw is used up; the next one is another free value. -/
def State.consumeDraw (s : State) : State := { s with draw := none, drawCount := s.drawCount + 1 }

/-! ### Fetch (R104) -/

/-- `op = (mem[PC] << 8) | mem[PC + 1]` (R62, R104). -/
def State.fetchWord (s : State) : Word := wordOfBytes (s.mem.read s.pc.toNat) (s.mem.read (s.pc.toNat + 1))

/-- The fetch guard `PC + 1 >= 4096` (R103). -/
def State.fetchBlocked (s : State) : Bool := decide (Config.memSize ≤ s.pc.toNat + 1)

end Sys2Proof.Machine
end

