-- ==== Sys2Proof/Machine/Operands.lean ====
section
/-! DEFINITION. The derived operands: the shift source, the key index, the glyph address, the decimal digits, and the
register and memory sequences of Fx55 and Fx65 (R82, R83). -/

namespace Sys2Proof.Machine

/-- The shift source of 8xy6 and 8xyE: Vx when `shift_quirk` is true, Vy when false (R33, R149, R151). -/
def State.shiftSource (s : State) (x y : Reg) : Byte := if s.shiftQuirk then s.getV x else s.getV y

/-- `KeyIndex(v)` (R216): the low nibble under `mask`; under `fault` none when v is above 0xF. -/
def keyIndex : KeyIndexPolicy → Byte → Option Reg
  | .mask, b => some (b.extractLsb' 0 4)
  | .fault, b => if b.toNat ≤ 0xF then some (b.extractLsb' 0 4) else none

/-- The address of a font glyph: `0x050 + (v & 0xF) * 5` (R172). -/
def glyphAddr (b : Byte) : Addr := 0x050#12 + (b &&& 0x0F#8).setWidth 12 * 5#12

/-- The hundreds, tens and ones digit of a byte (R173). -/
def hundreds (b : Byte) : Byte := BitVec.ofNat 8 (b.toNat / 100)
def tens (b : Byte) : Byte := BitVec.ofNat 8 (b.toNat / 10 % 10)
def ones (b : Byte) : Byte := BitVec.ofNat 8 (b.toNat % 10)

/-- The address `I + k` before masking (R61): the only addressing mode (43_index_memory.md). -/
def State.indexAddr (s : State) (k : Nat) : Nat := s.i.toNat + k

/-- The register with index `k` (R9). -/
def regOf (k : Nat) : Reg := BitVec.ofNat 4 k

/-- Memory after the stores of V0..V(n-1) at I..I+n-1, in ascending order (R174). -/
def State.memAfterStores (s : State) : Nat → Memory
  | 0 => s.mem
  | n + 1 => (s.memAfterStores n).write (s.indexAddr n) (s.getV (regOf n))

/-- The state after the loads of V0..V(n-1) from I..I+n-1, in ascending order (R175). -/
def State.afterLoads (s : State) : Nat → State
  | 0 => s
  | n + 1 => (s.afterLoads n).setV (regOf n) (s.mem.read (s.indexAddr n))

/-- `if mem_quirk: I <- (I + x + 1) mod 4096` (R174, R175). -/
def State.autoIncrement (s : State) (x : Reg) : State :=
  if s.memQuirk then s.setI (s.i + x.setWidth 12 + 1#12) else s

/-- The sprite rows of Dxyn, `[MemRead(I + r, 1) for r in 0 .. n-1]` (R193). -/
def State.spriteRows (s : State) (n : Nibble) : List Byte :=
  (List.range n.toNat).map fun r => s.mem.read (s.indexAddr r)

end Sys2Proof.Machine
end

