-- ==== Sys2Proof/Machine/Alu.lean ====
section
/-! DEFINITION. Register loads and the ALU (42_register_alu.md). Operands are read before any write (R107). Where two
registers are written, the writes stand in the order of the rule: the later one wins when x = F (R147 to R151). -/

namespace Sys2Proof.Machine

/-- 6xkk: `V[x] <- kk` (R141). -/
def execLdImm (x : Reg) (kk : Byte) (s : State) : Result := .next (s.setV x kk)

/-- 7xkk: `V[x] <- (V[x] + kk) mod 256`; no flag is written (R142). -/
def execAddImm (x : Reg) (kk : Byte) (s : State) : Result := .next (s.setV x (s.getV x + kk))

/-- 8xy0: `V[x] <- V[y]` (R143). -/
def execLdReg (x y : Reg) (s : State) : Result := .next (s.setV x (s.getV y))

/-- 8xy1: `V[x] <- V[x] | V[y]`; no flag is written (R144). -/
def execOrReg (x y : Reg) (s : State) : Result := .next (s.setV x (s.getV x ||| s.getV y))

/-- 8xy2: `V[x] <- V[x] & V[y]`; no flag is written (R145). -/
def execAndReg (x y : Reg) (s : State) : Result := .next (s.setV x (s.getV x &&& s.getV y))

/-- 8xy3: `V[x] <- V[x] ^ V[y]`; no flag is written (R146). -/
def execXorReg (x y : Reg) (s : State) : Result := .next (s.setV x (s.getV x ^^^ s.getV y))

/-- 8xy4: the sum modulo 256, then VF <- carry (R147). -/
def execAddReg (x y : Reg) (s : State) : Result :=
  .next ((s.setV x (s.getV x + s.getV y)).setV regF (carryFlag (s.getV x) (s.getV y)))

/-- 8xy5: `V[x] - V[y]` modulo 256, then VF <- not borrow (R148). -/
def execSubReg (x y : Reg) (s : State) : Result :=
  .next ((s.setV x (s.getV x - s.getV y)).setV regF (notBorrowFlag (s.getV x) (s.getV y)))

/-- 8xy6: VF <- bit 0 of the source, then `V[x] <- source >> 1` (R149). -/
def execShr (x y : Reg) (s : State) : Result :=
  .next ((s.setV regF (shiftedOutRight (s.shiftSource x y))).setV x (s.shiftSource x y >>> 1))

/-- 8xy7: `V[y] - V[x]` modulo 256, then VF <- not borrow (R150). -/
def execSubn (x y : Reg) (s : State) : Result :=
  .next ((s.setV x (s.getV y - s.getV x)).setV regF (notBorrowFlag (s.getV y) (s.getV x)))

/-- 8xyE: VF <- bit 7 of the source, then `V[x] <- (source << 1) mod 256` (R151). -/
def execShl (x y : Reg) (s : State) : Result :=
  .next ((s.setV regF (shiftedOutLeft (s.shiftSource x y))).setV x (s.shiftSource x y <<< 1))

/-- Cxkk: `V[x] <- r & kk`, r the cycle's draw (R152; the draw is a free value, assumption log 5). -/
def execRnd (x : Reg) (kk : Byte) (s : State) : Result := .next ((s.setV x (s.nextDraw &&& kk)).consumeDraw)

end Sys2Proof.Machine
end

