-- ==== Sys2Proof/Machine/Control.lean ====
section
/-! DEFINITION. Control flow: RET, jumps, CALL and the skips on registers (41_control_flow.md). PC on entry is the address of
the instruction plus 2 (R104). -/

namespace Sys2Proof.Machine

/-- 00EE: `if sp > 0 then PC <- Pop()`; otherwise nothing (R121). -/
def execRet (s : State) : Result :=
  match s.top? with
  | some a => .next (s.dropTop.setPc a)
  | none => .next s

/-- 1nnn: `PC <- nnn` (R122). -/
def execJp (nnn : Addr) (s : State) : Result := .next (s.setPc nnn)

/-- 2nnn: push the already-advanced PC and jump; with 16 entries on the stack raise StackOverflow, with no push and no jump
(R123, R234). -/
def execCall (nnn : Addr) (s : State) : Result :=
  if s.stack.length < Config.stackDepth then .next ((s.push s.pc).setPc nnn) else .next (s.raise .stackOverflow)

/-- 3xkk: `if V[x] = kk then skip` (R124). -/
def execSeImm (x : Reg) (kk : Byte) (s : State) : Result := .next (s.skipIf (decide (s.getV x = kk)))

/-- 4xkk: `if V[x] != kk then skip` (R125). -/
def execSneImm (x : Reg) (kk : Byte) (s : State) : Result := .next (s.skipIf (decide (s.getV x ≠ kk)))

/-- 5xy0: `if V[x] = V[y] then skip` (R126). -/
def execSeReg (x y : Reg) (s : State) : Result := .next (s.skipIf (decide (s.getV x = s.getV y)))

/-- 9xy0: `if V[x] != V[y] then skip` (R127). -/
def execSneReg (x y : Reg) (s : State) : Result := .next (s.skipIf (decide (s.getV x ≠ s.getV y)))

/-- Bnnn: `PC <- (nnn + V[0]) mod 4096` (R128). -/
def execJpV0 (nnn : Addr) (s : State) : Result := .next (s.setPc (nnn + (s.getV reg0).setWidth 12))

end Sys2Proof.Machine
end

