-- ==== Sys2Proof/Machine/Display.lean ====
section
/-! DEFINITION. The sprite blit with XOR and collision, CLS and DRW (44_display.md). -/

namespace Sys2Proof.Machine

/-- A framebuffer being drawn into, and the collision output so far. -/
abbrev Blit := Framebuffer × Bool

/-- The column and the row a sprite bit falls on: each axis wraps independently (R190). -/
def spriteCol (xc : Byte) (c : Nat) : Fin 64 := Fin.ofNat 64 (xc.toNat + c)
def spriteRow (yc : Byte) (r : Nat) : Fin 32 := Fin.ofNat 32 (yc.toNat + r)

/-- The bit of a sprite row that falls on its column `c`: bit 7 is the leftmost pixel (R190, R191). -/
def spriteBit (row : Byte) (c : Nat) : Bool := row.getLsbD (7 - c)

/-- The body of the inner loop of R190: XOR one bit into its pixel; a 1 bit on a set pixel is a collision. -/
def blitPixel (xc yc : Byte) (r : Nat) (row : Byte) (c : Nat) (b : Blit) : Blit :=
  (b.1.setPixel (spriteCol xc c) (spriteRow yc r)
      (b.1.pixel (spriteCol xc c) (spriteRow yc r) ^^ spriteBit row c),
    b.2 || (spriteBit row c && b.1.pixel (spriteCol xc c) (spriteRow yc r)))

/-- The first `n` columns of row `r`, left to right (R190). -/
def blitCols (xc yc : Byte) (r : Nat) (row : Byte) : Nat → Blit → Blit
  | 0, b => b
  | n + 1, b => blitPixel xc yc r row n (blitCols xc yc r row n b)

/-- The rows of a sprite from row `r` on, top to bottom, 8 columns each (R190). -/
def blitRows (xc yc : Byte) : Nat → List Byte → Blit → Blit
  | _, [], b => b
  | r, row :: rows, b => blitRows xc yc (r + 1) rows (blitCols xc yc r row 8 b)

/-- `draw_sprite(xc, yc, rows)`: the framebuffer after the blit, and whether a pixel went from set to unset (R190). -/
def drawSprite (xc yc : Byte) (rows : List Byte) (fb : Framebuffer) : Blit := blitRows xc yc 0 rows (fb, false)

/-- 00E0: every pixel 0, and the draw flag set (R192). -/
def execCls (s : State) : Result := .next (s.setDisplay Framebuffer.clear)

/-- Dxyn: draw the n rows at I at (V[x], V[y]), both read before VF is written; VF ends as the collision flag and the draw
flag is set, n = 0 included (R193). -/
def execDrw (x y : Reg) (n : Nibble) (s : State) : Result :=
  .next (((s.setV regF 0#8).setDisplay (drawSprite (s.getV x) (s.getV y) (s.spriteRows n) s.fb).1).setV regF
    (collisionFlag (drawSprite (s.getV x) (s.getV y) (s.spriteRows n) s.fb).2))

end Sys2Proof.Machine
end

