-- ==== Sys2Proof/Machine/Index.lean ====
section
/-! DEFINITION. The index register, and the loads and stores through it (43_index_memory.md). -/

namespace Sys2Proof.Machine

/-- Annn: `I <- nnn` (R170). -/
def execLdI (nnn : Addr) (s : State) : Result := .next (s.setI nnn)

/-- Fx1E: `I <- (I + V[x]) mod 4096`; VF is not written (R171). -/
def execAddI (x : Reg) (s : State) : Result := .next (s.setI (s.i + (s.getV x).setWidth 12))

/-- Fx29: `I <- 0x050 + (V[x] & 0xF) * 5` (R172). -/
def execLdF (x : Reg) (s : State) : Result := .next (s.setI (glyphAddr (s.getV x)))

/-- Fx33: hundreds, tens and ones of V[x] to I, I + 1, I + 2, in that order (R173). -/
def execLdB (x : Reg) (s : State) : Result :=
  .next (s.setMem (((s.mem.write (s.indexAddr 0) (hundreds (s.getV x))).write (s.indexAddr 1) (tens (s.getV x))).write
    (s.indexAddr 2) (ones (s.getV x))))

/-- Fx55: store V0..Vx at I..I+x, then `I += x + 1` if `mem_quirk` (R174). -/
def execStoreRegs (x : Reg) (s : State) : Result :=
  .next ((s.setMem (s.memAfterStores (x.toNat + 1))).autoIncrement x)

/-- Fx65: load V0..Vx from I..I+x, then `I += x + 1` if `mem_quirk` (R175). -/
def execLoadRegs (x : Reg) (s : State) : Result := .next ((s.afterLoads (x.toNat + 1)).autoIncrement x)

end Sys2Proof.Machine
end

