-- ==== Sys2Proof/Machine/TimersInput.lean ====
section
/-! DEFINITION. The timer and keypad instructions and the entry of the wait-for-key state (45_timers_input.md). -/

namespace Sys2Proof.Machine

/-- Fx07: `V[x] <- delay_timer` (R210). -/
def execLdVxDT (x : Reg) (s : State) : Result := .next (s.setV x s.delayTimer)

/-- Fx15: `delay_timer <- V[x]` (R211). -/
def execLdDTVx (x : Reg) (s : State) : Result := .next (s.setDelay (s.getV x))

/-- Fx18: `sound_timer <- V[x]` (R212). -/
def execLdSTVx (x : Reg) (s : State) : Result := .next (s.setSound (s.getV x))

/-- Skip when the state of key V[x] is `pressed`; under KEY_INDEX_POLICY = fault a V[x] above 0xF raises KeyIndexOutOfRange
and does not skip (R213, R214, R216, R235). -/
def State.skipOnKey (s : State) (x : Reg) (pressed : Bool) : State :=
  match keyIndex s.params.keyIndexPolicy (s.getV x) with
  | some k => s.skipIf (s.key k == pressed)
  | none => s.raise .keyIndexOutOfRange

/-- Ex9E: skip if key V[x] is pressed (R213). -/
def execSkp (x : Reg) (s : State) : Result := .next (s.skipOnKey x true)

/-- ExA1: skip if key V[x] is not pressed (R214). -/
def execSknp (x : Reg) (s : State) : Result := .next (s.skipOnKey x false)

/-- Fx0A: `wait <- Waiting(x)`; no register is written now (R215). -/
def execLdVxK (x : Reg) (s : State) : Result := .next (s.setWait (.waiting x))

end Sys2Proof.Machine
end

