-- ==== Sys2Proof/Machine/Cycle.lean ====
section
/-! DEFINITION. The cycle (40_cycle.md): the halted check, the wait poll, the fetch guard, fetch, decode and dispatch, in the
order of R100; and the CycleResult it reports. -/

namespace Sys2Proof.Machine

/-! ### The wait poll (R217) -/

/-- The lowest pressed key index, none when no key is pressed (R217). -/
def State.firstPressed (s : State) : Option Reg := ((List.range 16).map regOf).find? s.key

/-- The state after a poll that writes to register `r`: the key index is latched and the wait ends, or nothing changes
(R217). -/
def State.poll (s : State) (r : Reg) : State :=
  match s.firstPressed with
  | some k => (s.setV r (k.setWidth 8)).setWait .idle
  | none => s

/-! ### One cycle (R100) -/

/-- Decode and dispatch a fetched word on the state whose PC has advanced: its instruction runs (R105), or an unknown opcode
does nothing more (R106). -/
def State.dispatch (s : State) (op : Word) : Result :=
  match decodeWord op with
  | .ok i => exec i s
  | .error _ => .next s

/-- `cycle` (R100), its effect on the state: halted (R101), waiting (R102), fetch blocked (R103), or fetch, advance PC by 2
and dispatch (R104 to R106). -/
def State.cycleStep (s : State) : Result :=
  if s.fault = .none then
    match s.wait with
    | .waiting r => .next (s.poll r)
    | .idle => if s.fetchBlocked then .next s else s.skip.dispatch s.fetchWord
  else .next s

/-! ### What the cycle reports (R110) -/

/-- The value that `cycle` returns to the host (R110). -/
inductive CycleResult where
  /-- The core is halted by a fault (R101). -/
  | halted
  /-- The core waits and no key is pressed (R102). -/
  | waiting
  /-- The poll latched key k (R102). -/
  | keyLatched (k : Reg)
  /-- PC = 0xFFF: nothing was fetched (R103). -/
  | fetchBlocked
  /-- The instruction of this word ran (R105). -/
  | executed (op : Word)
  /-- This word is an unknown opcode (R106, R233). -/
  | unknown (op : Word)
  /-- This CALL found the stack full (R234). -/
  | stackOverflow (op : Word)
  /-- This Ex9E or ExA1 found Vx above 0xF under KEY_INDEX_POLICY = fault (R235). -/
  | keyIndexOutOfRange (op : Word)
deriving DecidableEq, Repr

/-- The report of an instruction that ran from a state with no fault: the fault it raised, or `Executed` (R105). -/
def reportOf (op : Word) : FaultState → CycleResult
  | .none => .executed op
  | .stackOverflow => .stackOverflow op
  | .keyIndexOutOfRange => .keyIndexOutOfRange op

/-- The report of the cycle that starts in `s` and gives `t` (R100, R110). -/
def State.cycleReport (s t : State) : CycleResult :=
  if s.fault = .none then
    match s.wait with
    | .waiting _ => match s.firstPressed with
      | some k => .keyLatched k
      | none => .waiting
    | .idle =>
      if s.fetchBlocked then .fetchBlocked
      else match decodeWord s.fetchWord with
        | .ok _ => reportOf s.fetchWord t.fault
        | .error _ => .unknown s.fetchWord
  else .halted

/-- `cycle(r)` (R40, R100): the host's draw `r` is there for this cycle only; the result and the state after. -/
def cycle (r : Byte) (s : State) : Host.Outcome (CycleResult × State) Fault Refusal :=
  match (s.setDraw (some r)).cycleStep with
  | .next t => .next (s.cycleReport t, t.setDraw none)
  | .fault f => .fault f
  | .refused q => .refused q

end Sys2Proof.Machine
end

