-- ==== Sys2Proof/Machine/Step.lean ====
section
/-! DEFINITION. One step of the machine is one `cycle()`; and the state in which the next fetch reads a given word. -/

namespace Sys2Proof.Machine

/-- One cycle (R100). The draw of Cxkk is the state's draw slot or a free value (assumption log 5). -/
def step (s : State) : Host.Outcome State Fault Refusal := s.cycleStep

/-- `s` with the instruction word `w` of `nbits` bits stored where the next step fetches: at PC and PC + 1, high byte first
(R62, R104). A halted, waiting or blocked state is made to fetch first: fault None, wait Idle, PC = 0x200 in place of 0xFFF
(assumption log 7). -/
def State.withFetchWord (s : State) (nbits w : Nat) : State :=
  let pc : Addr := if s.fetchBlocked then 0x200#12 else s.pc
  { s with
    mem := s.mem.writeBytes pc.toNat (bytesOfWord (BitVec.ofNat 16 (w % 2 ^ nbits)))
    pc := pc
    wait := .idle
    fault := .none }

end Sys2Proof.Machine
end

