-- ==== Sys2Proof/Machine/Snapshot.lean ====
section
/-! DEFINITION. The snapshot codec (R268 to R275): the byte layout of R271, its validation of R273, and the host operations
snapshot and restore. -/

namespace Sys2Proof.Machine

/-! ### Encode (R271) -/

/-- Length of a snapshot without its ROM bytes: the offset of the ROM bytes (R271). -/
abbrev snapshotHead : Nat := 4422

/-- The magic "C8VM" (R271). -/
def snapshotMagic : List Byte := [0x43#8, 0x38#8, 0x56#8, 0x4D#8]

/-- Byte `k` (0 or 1) of a big-endian 2-byte field. -/
def wordByte (n k : Nat) : Byte := if k = 0 then BitVec.ofNat 8 (n / 256) else BitVec.ofNat 8 (n % 256)

/-- The byte whose bit `j` is `f j`. -/
def packBits (f : Nat → Bool) : Byte :=
  BitVec.ofNat 8 ((f 0).toNat + 2 * (f 1).toNat + 4 * (f 2).toNat + 8 * (f 3).toNat + 16 * (f 4).toNat
    + 32 * (f 5).toNat + 64 * (f 6).toNat + 128 * (f 7).toNat)

/-- The pixel with row-major index `j = py * 64 + px` (R29). -/
def Framebuffer.pixelAt (fb : Framebuffer) (j : Nat) : Bool := fb.pixel (Fin.ofNat 64 j) (Fin.ofNat 32 (j / 64))

/-- Byte `j` of the FB field: pixels 8j .. 8j+7 of the row-major index, pixel 8j in bit 7 (R271). -/
def fbByte (fb : Framebuffer) (j : Nat) : Byte := packBits fun b => fb.pixelAt (8 * j + (7 - b))

/-- Byte `k` of the keys field, a big-endian 16-bit value whose bit k is key k (R271). -/
def keysByte (s : State) (k : Nat) : Byte := packBits fun b => s.key (regOf (8 * (1 - k) + b))

/-- The wait register field: r when waiting, 0 when idle (R271). -/
def waitRegister : WaitState → Byte
  | .idle => 0#8
  | .waiting r => r.setWidth 8

/-- The wait active field (R271). -/
def waitActive : WaitState → Byte
  | .idle => 0#8
  | .waiting _ => 1#8

/-- The quirks field: bit 0 = shift_quirk, bit 1 = mem_quirk (R271). -/
def quirksByte (s : State) : Byte := BitVec.ofNat 8 (s.shiftQuirk.toNat + 2 * s.memQuirk.toNat)

/-- The fault field: 0 None, 1 StackOverflow, 2 KeyIndexOutOfRange (R271). -/
def faultByte : FaultState → Byte
  | .none => 0#8
  | .stackOverflow => 1#8
  | .keyIndexOutOfRange => 2#8

/-- The retained ROM's bytes, none when there is no ROM. -/
def State.romBytes (s : State) : List Byte := s.rom.getD []

/-- The byte at an offset of `Encode(state)`, row by row of the table of R271. -/
def snapshotByte (s : State) (off : Nat) : Byte :=
  if off < 4 then snapshotMagic.getD off 0#8
  else if off < 5 then 0x01#8
  else if off < 4101 then s.mem.read (off - 5)
  else if off < 4117 then s.getV (regOf (off - 4101))
  else if off < 4119 then wordByte s.i.toNat (off - 4117)
  else if off < 4121 then wordByte s.pc.toNat (off - 4119)
  else if off < 4122 then BitVec.ofNat 8 s.stack.length
  else if off < 4154 then wordByte (s.stack.getD ((off - 4122) / 2) 0#12).toNat ((off - 4122) % 2)
  else if off < 4155 then s.delayTimer
  else if off < 4156 then s.soundTimer
  else if off < 4412 then fbByte s.fb (off - 4156)
  else if off < 4414 then keysByte s (off - 4412)
  else if off < 4415 then flagByte s.drawFlag
  else if off < 4416 then waitActive s.wait
  else if off < 4417 then waitRegister s.wait
  else if off < 4418 then quirksByte s
  else if off < 4419 then faultByte s.fault
  else if off < 4420 then flagByte s.rom.isSome
  else if off < 4422 then wordByte s.romBytes.length (off - 4420)
  else s.romBytes.getD (off - snapshotHead) 0#8

/-- `Encode(state)` (R271): every element of R20, in 4422 + L bytes. -/
def encodeSnapshot (s : State) : List Byte :=
  (List.range (snapshotHead + s.romBytes.length)).map (snapshotByte s)

/-! ### Decode (R273) -/

/-- The byte at an offset of a snapshot. -/
def byteAt (p : List Byte) (off : Nat) : Nat := (p.getD off 0#8).toNat

/-- The big-endian 2-byte field at an offset of a snapshot. -/
def wordAt (p : List Byte) (off : Nat) : Nat := byteAt p off * 256 + byteAt p (off + 1)

/-- Memory whose bytes from address `a` on are the given ones, in canonical form. -/
def Memory.ofBytes (a : Nat) : List Byte → Memory
  | [] => []
  | b :: bs => if b = Memory.background a then Memory.ofBytes (a + 1) bs else (a, b) :: Memory.ofBytes (a + 1) bs

/-- Condition 4 of R273 on one of the 16 stack entries: below the depth an address, at or above it 0. -/
def stackEntryValid (p : List Byte) (k : Nat) : Bool :=
  if k < byteAt p 4121 then decide (wordAt p (4122 + 2 * k) ≤ 0x0FFF) else decide (wordAt p (4122 + 2 * k) = 0)

/-- None of the eight conditions of R273 holds: the blob is one this version can fully and exactly decode. -/
def snapshotValid (p : List Byte) : Bool :=
  decide (snapshotHead ≤ p.length) && decide (p.length = snapshotHead + wordAt p 4420)
  && decide (p.take 4 = snapshotMagic) && decide (byteAt p 4 = 1)
  && decide (wordAt p 4117 ≤ 0x0FFF) && decide (wordAt p 4119 ≤ 0x0FFF)
  && decide (byteAt p 4121 ≤ 16) && (List.range 16).all (stackEntryValid p)
  && decide (byteAt p 4414 ≤ 1) && decide (byteAt p 4415 ≤ 1) && decide (byteAt p 4419 ≤ 1)
  && decide (byteAt p 4416 ≤ 15) && (decide (byteAt p 4415 = 1) || decide (byteAt p 4416 = 0))
  && decide (byteAt p 4417 ≤ 3)
  && decide (byteAt p 4418 ≤ 2)
  && decide (wordAt p 4420 ≤ Config.maxRom) && (decide (byteAt p 4419 = 1) || decide (wordAt p 4420 = 0))

/-- The fault state of the fault field (R271). -/
def faultOfByte : Nat → FaultState
  | 1 => .stackOverflow
  | 2 => .keyIndexOutOfRange
  | _ => .none

/-- `s` with the model's own fields, which no snapshot holds, as in `keep` (assumption log 13). -/
def State.keepOwn (s keep : State) : State :=
  { s with params := keep.params, draw := keep.draw, drawCount := keep.drawCount }

/-- The state whose fields R271 gives. The model's own fields, which no snapshot holds, are those of `keep`
(assumption log 13). -/
def stateOfSnapshot (keep : State) (p : List Byte) : State :=
  { keep with
    mem := Memory.ofBytes 0 ((p.drop 5).take Config.memSize)
    v := Vector.ofFn fun k : Fin 16 => BitVec.ofNat 8 (byteAt p (4101 + k.1))
    i := BitVec.ofNat 12 (wordAt p 4117)
    pc := BitVec.ofNat 12 (wordAt p 4119)
    stack := (List.range (byteAt p 4121)).map fun k => BitVec.ofNat 12 (wordAt p (4122 + 2 * k))
    delayTimer := BitVec.ofNat 8 (byteAt p 4154)
    soundTimer := BitVec.ofNat 8 (byteAt p 4155)
    fb := Vector.ofFn fun py : Fin 32 => Vector.ofFn fun px : Fin 64 =>
      (byteAt p (4156 + (py.1 * 64 + px.1) / 8)).testBit (7 - px.1 % 8)
    keys := Vector.ofFn fun k : Fin 16 => (wordAt p 4412).testBit k.1
    drawFlag := decide (byteAt p 4414 = 1)
    wait := if byteAt p 4415 = 1 then .waiting (BitVec.ofNat 4 (byteAt p 4416)) else .idle
    shiftQuirk := (byteAt p 4417).testBit 0
    memQuirk := (byteAt p 4417).testBit 1
    fault := faultOfByte (byteAt p 4418)
    rom := if byteAt p 4419 = 1 then some (p.drop snapshotHead) else none }

/-- `Decode(p)`: none when the blob is invalid (R273). -/
def decodeSnapshot (keep : State) (p : List Byte) : Option State :=
  if snapshotValid p then some (stateOfSnapshot keep p) else none

/-! ### The host operations (R270, R272) -/

/-- `snapshot()`: the compressed encoding; the state does not change (R270). -/
def snapshot (c : Codec) (s : State) : List Byte := c.compress (encodeSnapshot s)

/-- What `restore` returns (R40). -/
inductive RestoreResult where
  | ok
  /-- The blob was malformed or of another version; nothing changed (R232). -/
  | invalidSnapshot
deriving DecidableEq, Repr

/-- `restore(b)`: every field of R20 is replaced, or nothing changes (R272). -/
def restore (c : Codec) (b : List Byte) (s : State) : RestoreResult × State :=
  match (c.decompress b).bind (decodeSnapshot s) with
  | some t => (.ok, t)
  | none => (.invalidSnapshot, s)

end Sys2Proof.Machine
end

