-- ==== Sys2Proof/WellFormed.lean ====
section
/-! DEFINITION. What a well-formed instruction and a well-formed ROM are. The fields of `Instr` have the widths of R81, so a
term of `Instr` is well-formed by its type; the check below is the one an assembler makes on operand values that are still
numbers (R90), and `Instr.wellFormed` says it of an instruction's own operands. -/

namespace Sys2Proof

/-- The operand forms of R83 and R90. -/
inductive OperandKind where
  /-- `Vx`, `Vy`: the index of one of V0..VF. -/
  | reg
  /-- `addr`: a 12-bit number. -/
  | addr
  /-- `byte`: an 8-bit number. -/
  | byte
  /-- `nibble`: a 4-bit number. -/
  | nibble
deriving DecidableEq, Repr

/-- The width of the field that holds an operand (R81). -/
def OperandKind.width : OperandKind → Nat
  | .reg => 4
  | .addr => 12
  | .byte => 8
  | .nibble => 4

/-- A number is an operand of this kind when its field can hold it: immediates are never truncated or sign-extended (R82). -/
def OperandKind.admits (k : OperandKind) (v : Nat) : Bool := decide (v < 2 ^ k.width)

/-- The explicit operands of an instruction, in the order of R90. -/
def Instr.operands : Instr → List (OperandKind × Nat)
  | .cls | .ret => []
  | .jp nnn | .call nnn | .ldI nnn | .jpV0 nnn => [(.addr, nnn.toNat)]
  | .seImm x kk | .sneImm x kk | .ldImm x kk | .addImm x kk | .rnd x kk => [(.reg, x.toNat), (.byte, kk.toNat)]
  | .seReg x y | .ldReg x y | .orReg x y | .andReg x y | .xorReg x y | .addReg x y | .subReg x y | .shr x y | .subn x y
  | .shl x y | .sneReg x y => [(.reg, x.toNat), (.reg, y.toNat)]
  | .drw x y n => [(.reg, x.toNat), (.reg, y.toNat), (.nibble, n.toNat)]
  | .skp x | .sknp x | .ldVxDT x | .ldVxK x | .ldDTVx x | .ldSTVx x | .addI x | .ldF x | .ldB x | .storeRegs x
  | .loadRegs x => [(.reg, x.toNat)]

/-- Every operand fits its field. -/
def Instr.wellFormed (i : Instr) : Bool := i.operands.all fun o => o.1.admits o.2

/-- A ROM that `load_rom` accepts: it fits between 0x200 and the top of memory (R69, R231). Length 0 is accepted (R264). -/
def romWellFormed (bytes : List Byte) : Bool := decide (Config.progBase + bytes.length ≤ Config.memSize)

end Sys2Proof
end

