-- ==== Sys2Proof/Machine/HostOps.lean ====
section
/-! DEFINITION. The host's operations on the block (R40): construction, resets, loading, quirks, timers, keys, the display
hand-off; and a run as a list of them (R252). -/

namespace Sys2Proof.Machine

/-! ### Construction and reset (R260 to R263) -/

/-- What both resets do outside memory, the keypad, the quirks and the ROM (R261, R262). -/
def State.resetCore (s : State) : State :=
  { s with
    v := Vector.replicate 16 0#8
    i := 0#12
    pc := 0x200#12
    stack := []
    delayTimer := 0#8
    soundTimer := 0#8
    fb := Framebuffer.clear
    drawFlag := true
    wait := .idle
    fault := .none }

/-- Hard reset (R261): memory is 0 but for FONT at 0x050, and the retained ROM is gone. Every font cell is written, so it does
not matter what the empty list reads as there. -/
def hardReset (s : State) : State :=
  { s.resetCore with mem := Memory.writeBytes [] Config.fontBase s.params.font.toList, rom := none }

/-- Soft reset (R262): 0x200 and up is zeroed and the retained ROM copied back; memory below 0x200 is kept. -/
def softReset (s : State) : State :=
  { s.resetCore with mem := Memory.writeBytes s.mem.clearProgram Config.progBase s.romBytes }

/-- `reset(hard)` (R263). -/
def resetOp (hard : Bool) (s : State) : State := if hard then hardReset s else softReset s

/-- `construct(shift_quirk_init, mem_quirk_init)` (R260), for a block with parameters `p` (R6): all keys released, then a hard
reset. -/
def construct (p : Params) (shiftInit memInit : Bool) : State :=
  hardReset { State.reset with
    params := p, shiftQuirk := shiftInit, memQuirk := memInit, keys := Vector.replicate 16 false }

/-! ### Loading, quirks, timers, keys, display (R264, R266, R240, R244 to R246) -/

/-- What `load_rom` returns (R40). -/
inductive LoadResult where
  | ok
  /-- The ROM does not fit; the rejected length; nothing changed (R231). -/
  | romTooLarge (length : Nat)
deriving DecidableEq, Repr

/-- Keep a byte sequence as the retained ROM (R34). -/
def State.retain (s : State) (bytes : List Byte) : State := { s with rom := some bytes }

/-- `load_rom(bytes)`: keep the bytes as the retained ROM and soft-reset, or change nothing (R264). -/
def loadRom (bytes : List Byte) (s : State) : LoadResult × State :=
  if romWellFormed bytes then (.ok, softReset (s.retain bytes)) else (.romTooLarge bytes.length, s)

/-- `set_quirks(shift, mem)`: a pure update (R266). -/
def setQuirks (shift memq : Bool) (s : State) : State := { s with shiftQuirk := shift, memQuirk := memq }

/-- A timer after one tick: it saturates at 0 (R240). -/
def tickDown (b : Byte) : Byte := if 0 < b.toNat then b - 1#8 else b

/-- `tick_timers()`: both timers count down, whatever the core is doing (R240, R243). -/
def tickTimers (s : State) : State := { s with delayTimer := tickDown s.delayTimer, soundTimer := tickDown s.soundTimer }

/-- `set_key(k, pressed)`; only the key indices 0..15 exist (R245). -/
def setKey (k : Reg) (pressed : Bool) (s : State) : State := { s with keys := s.keys.set k.toNat pressed k.isLt }

/-- `read_framebuffer()`: the 2048 pixels in row-major order (R244). -/
def readFramebuffer (s : State) : List Bool := (List.range 2048).map s.fb.pixelAt

/-- `take_draw_flag()`: read and clear in one step (R246). -/
def takeDrawFlag (s : State) : Bool × State := (s.drawFlag, { s with drawFlag := false })

/-! ### The interface as data (R40) -/

/-- The host's operations on a block (R40); `construct` makes a block and is not among them. -/
inductive HostOp where
  | reset (hard : Bool)
  | loadRom (bytes : List Byte)
  | cycle (r : Byte)
  | tickTimers
  | setKey (k : Reg) (pressed : Bool)
  | readFramebuffer
  | takeDrawFlag
  | setQuirks (shift memq : Bool)
  | snapshot
  | restore (blob : List Byte)
deriving DecidableEq, Repr

/-- What an operation returns to the host (R40, R41). -/
inductive HostResult where
  | done
  | loaded (r : LoadResult)
  | cycled (r : CycleResult)
  | pixels (ps : List Bool)
  | drawFlag (b : Bool)
  | blob (bytes : List Byte)
  | restored (r : RestoreResult)
deriving DecidableEq, Repr

/-- One host operation, an atomic transaction on the state (R40). Only a cycle could end otherwise than in a next state, and
none does. -/
def HostOp.apply (c : Codec) (o : HostOp) (s : State) : Host.Outcome (HostResult × State) Fault Refusal :=
  match o with
  | .reset hard => .next (.done, resetOp hard s)
  | .loadRom bytes => .next (.loaded (Machine.loadRom bytes s).1, (Machine.loadRom bytes s).2)
  | .cycle r =>
    match Machine.cycle r s with
    | .next q => .next (.cycled q.1, q.2)
    | .fault f => .fault f
    | .refused q => .refused q
  | .tickTimers => .next (.done, Machine.tickTimers s)
  | .setKey k pressed => .next (.done, Machine.setKey k pressed s)
  | .readFramebuffer => .next (.pixels (Machine.readFramebuffer s), s)
  | .takeDrawFlag => .next (.drawFlag (Machine.takeDrawFlag s).1, (Machine.takeDrawFlag s).2)
  | .setQuirks shift memq => .next (.done, Machine.setQuirks shift memq s)
  | .snapshot => .next (.blob (Machine.snapshot c s), s)
  | .restore b => .next (.restored (Machine.restore c b s).1, (Machine.restore c b s).2)

/-- A run: a finite sequence of host operations; the state after it (R252). -/
def runHost (c : Codec) : List HostOp → State → Host.Outcome State Fault Refusal
  | [], s => .next s
  | o :: os, s =>
    match o.apply c s with
    | .next q => runHost c os q.2
    | .fault f => .fault f
    | .refused q => .refused q

/-! ### Error codes (R230) -/

/-- An error as the host sees it, with the value recorded (R230). -/
inductive ErrorReport where
  | romTooLarge (length : Nat)
  | invalidSnapshot
  | unknownOpcode (op : Word)
  | stackOverflow (op : Word)
  | keyIndexOutOfRange (op : Word)
deriving DecidableEq, Repr

/-- The code of an error: a label with no architectural effect (R230). -/
def ErrorReport.code : ErrorReport → Nat
  | .romTooLarge _ => 1
  | .invalidSnapshot => 2
  | .unknownOpcode _ => 3
  | .stackOverflow _ => 4
  | .keyIndexOutOfRange _ => 5

/-- The error that an operation's result reports, if it reports one (R230, R231 to R235). -/
def HostResult.error? : HostResult → Option ErrorReport
  | .loaded (.romTooLarge n) => some (.romTooLarge n)
  | .restored .invalidSnapshot => some .invalidSnapshot
  | .cycled (.unknown op) => some (.unknownOpcode op)
  | .cycled (.stackOverflow op) => some (.stackOverflow op)
  | .cycled (.keyIndexOutOfRange op) => some (.keyIndexOutOfRange op)
  | _ => none

end Sys2Proof.Machine
end

