-- ==== Sys2Proof/Safety.lean ====
section
/-! DEFINITION. The terms that claims use: the invariant of the state, what a running core is, and what an operation may
change (the frame rule R108). -/

namespace Sys2Proof.Machine

/-- The invariant that every operation keeps: memory is in canonical form, the stack holds at most 16 entries (R25) and the
retained ROM at most 3584 bytes (R34). The widths of all other fields are their types. -/
abbrev State.Inv (s : State) : Prop :=
  s.mem.wf = true ∧ s.stack.length ≤ Config.stackDepth ∧ s.romBytes.length ≤ Config.maxRom

/-- A core whose next cycle fetches and dispatches: no fault, not waiting, PC below 0xFFF (R101 to R103). -/
abbrev State.Running (s : State) : Prop := s.fault = .none ∧ s.wait = .idle ∧ s.pc ≠ 0xFFF#12

/-- What both resets leave in every element but memory, keypad, quirks and ROM (R21 to R32, R36, R261, R262). -/
structure ResetValues (t : State) : Prop where
  regs : ∀ r : Reg, t.getV r = 0#8
  i : t.i = 0#12
  pc : t.pc = 0x200#12
  stack : t.stack = []
  delayTimer : t.delayTimer = 0#8
  soundTimer : t.soundTimer = 0#8
  fb : ∀ px py, t.fb.pixel px py = false
  drawFlag : t.drawFlag = true
  wait : t.wait = .idle
  fault : t.fault = .none

/-- What no reset changes: the keypad, the quirks, and the parameters (R31, R33, R37, R261, R262). -/
structure KeptByReset (s t : State) : Prop where
  keys : t.keys = s.keys
  shiftQuirk : t.shiftQuirk = s.shiftQuirk
  memQuirk : t.memQuirk = s.memQuirk
  params : t.params = s.params

/-- Instructions executed one after another by their meanings alone, without fetching. -/
def execAll : List Instr → State → Result
  | [], s => .next s
  | i :: is, s =>
    match exec i s with
    | .next t => execAll is t
    | .fault f => .fault f
    | .refused q => .refused q

/-- The instruction that a running core is about to execute is `i`. -/
abbrev State.Executes (s : State) (i : Instr) : Prop := s.Running ∧ decodeWord s.fetchWord = .ok i

/-- The column of a sprite drawn at `xc` that falls on framebuffer column `px`, counted with wraparound; below 8 it is a
column of the sprite (R190). -/
def colOffset (xc : Byte) (px : Fin 64) : Nat := (px.1 + 64 - xc.toNat % 64) % 64

/-- The row of a sprite drawn at `yc` that falls on framebuffer row `py`, counted with wraparound (R190). -/
def rowOffset (yc : Byte) (py : Fin 32) : Nat := (py.1 + 32 - yc.toNat % 32) % 32

/-- The sprite bit that covers a pixel: bit 7 - c of row r when the sprite drawn at `(xc, yc)` has a column c and a row r on
it, else 0. Written from the geometry of R190 and R191, not from the drawing loop. -/
def coverBit (xc yc : Byte) (rows : List Byte) (px : Fin 64) (py : Fin 32) : Bool :=
  decide (colOffset xc px < 8) && (rows.getD (rowOffset yc py) 0#8).getLsbD (7 - colOffset xc px)

/-- Which parts of the state an operation is allowed to change; `mem` lists the addresses stored to, before masking. -/
structure Changes where
  regs : List Reg := []
  mem : List Nat := []
  i : Bool := false
  pc : Bool := false
  stack : Bool := false
  delayTimer : Bool := false
  soundTimer : Bool := false
  display : Bool := false
  wait : Bool := false
  fault : Bool := false
  draw : Bool := false

/-- The frame rule (R108): from `s` to `t` nothing changes but what `c` names. The keypad, the quirks, the retained ROM and
the parameters are in no instruction's changes. -/
structure Frame (c : Changes) (s t : State) : Prop where
  regs : ∀ r : Reg, r ∉ c.regs → t.getV r = s.getV r
  mem : ∀ a : Nat, (∀ b ∈ c.mem, a % 4096 ≠ b % 4096) → t.mem.read a = s.mem.read a
  i : c.i = false → t.i = s.i
  pc : c.pc = false → t.pc = s.pc
  stack : c.stack = false → t.stack = s.stack
  delayTimer : c.delayTimer = false → t.delayTimer = s.delayTimer
  soundTimer : c.soundTimer = false → t.soundTimer = s.soundTimer
  fb : c.display = false → t.fb = s.fb
  drawFlag : c.display = false → t.drawFlag = s.drawFlag
  wait : c.wait = false → t.wait = s.wait
  fault : c.fault = false → t.fault = s.fault
  draw : c.draw = false → t.draw = s.draw
  drawCount : c.draw = false → t.drawCount = s.drawCount
  keys : t.keys = s.keys
  shiftQuirk : t.shiftQuirk = s.shiftQuirk
  memQuirk : t.memQuirk = s.memQuirk
  rom : t.rom = s.rom
  params : t.params = s.params

end Sys2Proof.Machine
end

