-- ==== Sys2Proof/Certificates/Slice0/Obligations.lean ====
section
/-! DEFINITION. The statements for the provers. A statement about an instruction has three parts: every word of its row
decodes to it; `exec` answers a next state whose written parts have the values of the rule; and nothing else changes
(`Frame`; that unnamed state is unchanged is the spec's own decision D37). Where a docstring names a decision D<n>, the
spec marks that part of the rule as its own choice (assumption log 15). The state `exec` receives has its PC already
advanced (R104), so `s.pc` is the address of the next instruction. -/

open Sys2Proof Sys2Proof.Machine

/-! ### Encoding (30_encoding.md) -/

/-- Eleven words written out from the patterns of R85, in the families (high nibbles) 0, 1, 3, 5, 8, D, E and F, and ten words
that are none: R87, R88, vectors V3 to V6. -/
def Obligations.WrittenOutWordsDecode : Prop :=
  decodeWord 0x00E0#16 = .ok .cls ∧ decodeWord 0x00EE#16 = .ok .ret ∧ decodeWord 0x1ABC#16 = .ok (.jp 0xABC#12) ∧
  decodeWord 0x3342#16 = .ok (.seImm 3#4 0x42#8) ∧ decodeWord 0x5120#16 = .ok (.seReg 1#4 2#4) ∧
  decodeWord 0x8AB4#16 = .ok (.addReg 0xA#4 0xB#4) ∧ decodeWord 0x812E#16 = .ok (.shl 1#4 2#4) ∧
  decodeWord 0xD125#16 = .ok (.drw 1#4 2#4 5#4) ∧ decodeWord 0xE19E#16 = .ok (.skp 1#4) ∧
  decodeWord 0xF30A#16 = .ok (.ldVxK 3#4) ∧ decodeWord 0xF155#16 = .ok (.storeRegs 1#4) ∧
  decodeWord 0x0000#16 = .error (.unknownOpcode 0x0000#16) ∧ decodeWord 0x0123#16 = .error (.unknownOpcode 0x0123#16) ∧
  decodeWord 0x5121#16 = .error (.unknownOpcode 0x5121#16) ∧ decodeWord 0x9121#16 = .error (.unknownOpcode 0x9121#16) ∧
  decodeWord 0x8008#16 = .error (.unknownOpcode 0x8008#16) ∧ decodeWord 0x800F#16 = .error (.unknownOpcode 0x800F#16) ∧
  decodeWord 0xE09F#16 = .error (.unknownOpcode 0xE09F#16) ∧ decodeWord 0xE0A2#16 = .error (.unknownOpcode 0xE0A2#16) ∧
  decodeWord 0xF000#16 = .error (.unknownOpcode 0xF000#16) ∧ decodeWord 0xF0FF#16 = .error (.unknownOpcode 0xF0FF#16)

/-- Decoding the two bytes of any instruction gives it back, with whatever bytes follow, and every instruction is
well-formed (R80, R81, R85). -/
def Obligations.DecodeOfEncodeIsIdentity : Prop :=
  ∀ (i : Instr) (rest : List Byte), i.wellFormed = true ∧ decode (encodeBytes i ++ rest) = .ok (i, rest)

/-- A word that decodes to an instruction is the word of that instruction: each word has one meaning and no bit of it is
dropped (R81, R85). -/
def Obligations.EncodeOfDecodeIsIdentity : Prop :=
  ∀ (op : Word) (i : Instr), decodeWord op = .ok i → encode i = op

/-- R85 and R87: the decoder accepts exactly the words that some row of the mask and match table matches, the row it picks
is one that matches, and every other word is rejected by name. -/
def Obligations.DecoderFollowsOpcodeTable : Prop :=
  (∀ op : Word, (∃ i, decodeWord op = .ok i) ↔ ∃ r ∈ opcodeTable, op &&& r.mask = r.pattern) ∧
  (∀ (op : Word) (i : Instr), decodeWord op = .ok i → i.row ∈ opcodeTable ∧ op &&& i.row.mask = i.row.pattern) ∧
  (∀ (op : Word) (e : DecodeError), decodeWord op = .error e → e = .unknownOpcode op)

/-- R86: there are 34 rows, and no word matches two of them. -/
def Obligations.OpcodeRowsAreDisjoint : Prop :=
  opcodeTable.length = 34 ∧
  ∀ (op : Word), ∀ r ∈ opcodeTable, ∀ q ∈ opcodeTable, op &&& r.mask = r.pattern → op &&& q.mask = q.pattern → r = q

/-! ### Control flow (41_control_flow.md) -/

/-- R121: RET pops into PC; on an empty stack it does nothing. -/
def Obligations.RetPopsOrDoesNothing : Prop :=
  (∀ op : Word, op &&& 0xFFFF#16 = 0x00EE#16 → decodeWord op = .ok .ret) ∧
  (∀ (s : State) (below : List Addr) (a : Addr), s.stack = below ++ [a] →
    ∃ t, exec .ret s = .next t ∧ t.pc = a ∧ t.stack = below ∧ Frame { pc := true, stack := true } s t) ∧
  (∀ s : State, s.stack = [] → exec .ret s = .next s)

/-- R122 and R128: JP sets PC to nnn, JP V0 to nnn + V0 modulo 4096 (the masking is decision D4). -/
def Obligations.JumpsSetPc : Prop :=
  (∀ op : Word, op &&& 0xF000#16 = 0x1000#16 → decodeWord op = .ok (.jp (opNNN op))) ∧
  (∀ op : Word, op &&& 0xF000#16 = 0xB000#16 → decodeWord op = .ok (.jpV0 (opNNN op))) ∧
  (∀ (nnn : Addr) (s : State), ∃ t, exec (.jp nnn) s = .next t ∧ t.pc = nnn ∧ Frame { pc := true } s t) ∧
  (∀ (nnn : Addr) (s : State), ∃ t, exec (.jpV0 nnn) s = .next t ∧
    t.pc.toNat = (nnn.toNat + (s.getV 0#4).toNat) % 4096 ∧ Frame { pc := true } s t)

/-- R123: CALL pushes the already-advanced PC and jumps; on a full stack it does neither and `fault` becomes StackOverflow,
and nothing else changes (the consequence is decision D9). -/
def Obligations.CallPushesOrOverflows : Prop :=
  (∀ op : Word, op &&& 0xF000#16 = 0x2000#16 → decodeWord op = .ok (.call (opNNN op))) ∧
  (∀ (nnn : Addr) (s : State), s.stack.length < 16 →
    ∃ t, exec (.call nnn) s = .next t ∧ t.stack = s.stack ++ [s.pc] ∧ t.pc = nnn ∧
      Frame { pc := true, stack := true } s t) ∧
  (∀ (nnn : Addr) (s : State), s.stack.length = 16 →
    ∃ t, exec (.call nnn) s = .next t ∧ t.fault = .stackOverflow ∧ Frame { fault := true } s t)

/-- R124 and R125: SE and SNE against a byte skip the next two bytes, modulo 4096 (decision D5), or do nothing. -/
def Obligations.SkipsOnByteComparison : Prop :=
  (∀ op : Word, op &&& 0xF000#16 = 0x3000#16 → decodeWord op = .ok (.seImm (opX op) (opKK op))) ∧
  (∀ op : Word, op &&& 0xF000#16 = 0x4000#16 → decodeWord op = .ok (.sneImm (opX op) (opKK op))) ∧
  (∀ (x : Reg) (kk : Byte) (s : State), ∃ t, exec (.seImm x kk) s = .next t ∧
    t.pc.toNat = (if s.getV x = kk then (s.pc.toNat + 2) % 4096 else s.pc.toNat) ∧ Frame { pc := true } s t) ∧
  (∀ (x : Reg) (kk : Byte) (s : State), ∃ t, exec (.sneImm x kk) s = .next t ∧
    t.pc.toNat = (if s.getV x = kk then s.pc.toNat else (s.pc.toNat + 2) % 4096) ∧ Frame { pc := true } s t)

/-- R126 and R127: SE and SNE between registers; only the words whose low nibble is 0 are these instructions
(decision D24; the wrap of the skip is D5). -/
def Obligations.SkipsOnRegisterComparison : Prop :=
  (∀ op : Word, op &&& 0xF00F#16 = 0x5000#16 → decodeWord op = .ok (.seReg (opX op) (opY op))) ∧
  (∀ op : Word, op &&& 0xF00F#16 = 0x9000#16 → decodeWord op = .ok (.sneReg (opX op) (opY op))) ∧
  (∀ op : Word, (opFamily op = 0x5#4 ∨ opFamily op = 0x9#4) → opN op ≠ 0#4 →
    decodeWord op = .error (.unknownOpcode op)) ∧
  (∀ (x y : Reg) (s : State), ∃ t, exec (.seReg x y) s = .next t ∧
    t.pc.toNat = (if s.getV x = s.getV y then (s.pc.toNat + 2) % 4096 else s.pc.toNat) ∧ Frame { pc := true } s t) ∧
  (∀ (x y : Reg) (s : State), ∃ t, exec (.sneReg x y) s = .next t ∧
    t.pc.toNat = (if s.getV x = s.getV y then s.pc.toNat else (s.pc.toNat + 2) % 4096) ∧ Frame { pc := true } s t)

/-- Nested calls come back: whatever the targets, as many RETs as CALLs that fit on the stack restore the state (from R121,
R123 and R129). -/
def Obligations.BalancedCallsAndReturnsRestoreState : Prop :=
  ∀ (targets : List Addr) (s : State), s.stack.length + targets.length ≤ 16 →
    execAll (targets.map .call ++ List.replicate targets.length .ret) s = .next s

/-! ### Register loads and ALU (42_register_alu.md) -/

/-- R141 and R142: load immediate, and add immediate modulo 256 without a flag. -/
def Obligations.ImmediateLoadAndAdd : Prop :=
  (∀ op : Word, op &&& 0xF000#16 = 0x6000#16 → decodeWord op = .ok (.ldImm (opX op) (opKK op))) ∧
  (∀ op : Word, op &&& 0xF000#16 = 0x7000#16 → decodeWord op = .ok (.addImm (opX op) (opKK op))) ∧
  (∀ (x : Reg) (kk : Byte) (s : State), ∃ t, exec (.ldImm x kk) s = .next t ∧ t.getV x = kk ∧
    Frame { regs := [x] } s t) ∧
  (∀ (x : Reg) (kk : Byte) (s : State), ∃ t, exec (.addImm x kk) s = .next t ∧
    (t.getV x).toNat = ((s.getV x).toNat + kk.toNat) % 256 ∧ Frame { regs := [x] } s t)

/-- R143 to R146: copy, OR, AND, XOR into Vx; VF is not reset. -/
def Obligations.CopyAndLogicWriteOnlyVx : Prop :=
  (∀ op : Word, op &&& 0xF00F#16 = 0x8000#16 → decodeWord op = .ok (.ldReg (opX op) (opY op))) ∧
  (∀ op : Word, op &&& 0xF00F#16 = 0x8001#16 → decodeWord op = .ok (.orReg (opX op) (opY op))) ∧
  (∀ op : Word, op &&& 0xF00F#16 = 0x8002#16 → decodeWord op = .ok (.andReg (opX op) (opY op))) ∧
  (∀ op : Word, op &&& 0xF00F#16 = 0x8003#16 → decodeWord op = .ok (.xorReg (opX op) (opY op))) ∧
  (∀ (x y : Reg) (s : State), ∃ t, exec (.ldReg x y) s = .next t ∧ t.getV x = s.getV y ∧ Frame { regs := [x] } s t) ∧
  (∀ (x y : Reg) (s : State), ∃ t, exec (.orReg x y) s = .next t ∧ t.getV x = s.getV x ||| s.getV y ∧
    Frame { regs := [x] } s t) ∧
  (∀ (x y : Reg) (s : State), ∃ t, exec (.andReg x y) s = .next t ∧ t.getV x = s.getV x &&& s.getV y ∧
    Frame { regs := [x] } s t) ∧
  (∀ (x y : Reg) (s : State), ∃ t, exec (.xorReg x y) s = .next t ∧ t.getV x = s.getV x ^^^ s.getV y ∧
    Frame { regs := [x] } s t)

/-- R147: the sum modulo 256 and the carry; VF ends as the carry, x = F included (decision D3; old operands, D2). -/
def Obligations.AddWritesSumAndCarry : Prop :=
  (∀ op : Word, op &&& 0xF00F#16 = 0x8004#16 → decodeWord op = .ok (.addReg (opX op) (opY op))) ∧
  ∀ (x y : Reg) (s : State), ∃ t, exec (.addReg x y) s = .next t ∧
    (x ≠ 0xF#4 → (t.getV x).toNat = ((s.getV x).toNat + (s.getV y).toNat) % 256) ∧
    t.getV 0xF#4 = (if 255 < (s.getV x).toNat + (s.getV y).toNat then 1#8 else 0#8) ∧
    Frame { regs := [x, 0xF#4] } s t

/-- R148 and R150: the difference modulo 256 and the not-borrow flag; VF ends as the flag, x = F included
(decision D3; old operands, D2). -/
def Obligations.SubtractionsWriteDifferenceAndNotBorrow : Prop :=
  (∀ op : Word, op &&& 0xF00F#16 = 0x8005#16 → decodeWord op = .ok (.subReg (opX op) (opY op))) ∧
  (∀ op : Word, op &&& 0xF00F#16 = 0x8007#16 → decodeWord op = .ok (.subn (opX op) (opY op))) ∧
  (∀ (x y : Reg) (s : State), ∃ t, exec (.subReg x y) s = .next t ∧
    (x ≠ 0xF#4 → ((t.getV x).toNat : Int) = ((s.getV x).toNat - (s.getV y).toNat : Int) % 256) ∧
    t.getV 0xF#4 = (if (s.getV x).toNat < (s.getV y).toNat then 0#8 else 1#8) ∧
    Frame { regs := [x, 0xF#4] } s t) ∧
  (∀ (x y : Reg) (s : State), ∃ t, exec (.subn x y) s = .next t ∧
    (x ≠ 0xF#4 → ((t.getV x).toNat : Int) = ((s.getV y).toNat - (s.getV x).toNat : Int) % 256) ∧
    t.getV 0xF#4 = (if (s.getV y).toNat < (s.getV x).toNat then 0#8 else 1#8) ∧
    Frame { regs := [x, 0xF#4] } s t)

/-- R149: shift right; the source is Vx or Vy by `shift_quirk`, VF gets bit 0, and with x = F the result wins
(decisions D2, D3). -/
def Obligations.ShiftRightFollowsQuirk : Prop :=
  (∀ op : Word, op &&& 0xF00F#16 = 0x8006#16 → decodeWord op = .ok (.shr (opX op) (opY op))) ∧
  ∀ (x y : Reg) (s : State) (src : Byte), src = (if s.shiftQuirk then s.getV x else s.getV y) →
    ∃ t, exec (.shr x y) s = .next t ∧ (t.getV x).toNat = src.toNat / 2 ∧
      (x ≠ 0xF#4 → (t.getV 0xF#4).toNat = src.toNat % 2) ∧ Frame { regs := [x, 0xF#4] } s t

/-- R151: shift left modulo 256; the source is Vx or Vy by `shift_quirk`, VF gets bit 7, and with x = F the result wins
(decisions D2, D3). -/
def Obligations.ShiftLeftFollowsQuirk : Prop :=
  (∀ op : Word, op &&& 0xF00F#16 = 0x800E#16 → decodeWord op = .ok (.shl (opX op) (opY op))) ∧
  ∀ (x y : Reg) (s : State) (src : Byte), src = (if s.shiftQuirk then s.getV x else s.getV y) →
    ∃ t, exec (.shl x y) s = .next t ∧ (t.getV x).toNat = src.toNat * 2 % 256 ∧
      (x ≠ 0xF#4 → (t.getV 0xF#4).toNat = src.toNat / 128) ∧ Frame { regs := [x, 0xF#4] } s t

/-- R152: Vx gets the cycle's draw masked with kk, for every draw the host may supply and for the free value that stands in
when it supplies none (assumption log 5); bits clear in kk are clear in the result. -/
def Obligations.RandomByteIsMasked : Prop :=
  (∀ op : Word, op &&& 0xF000#16 = 0xC000#16 → decodeWord op = .ok (.rnd (opX op) (opKK op))) ∧
  ∀ (x : Reg) (kk : Byte) (s : State), ∃ t, exec (.rnd x kk) s = .next t ∧
    (∀ r, s.draw = some r → t.getV x = r &&& kk) ∧
    (s.draw = none → t.getV x = Config.randomByte s.drawCount &&& kk) ∧
    (∀ j, kk.getLsbD j = false → (t.getV x).getLsbD j = false) ∧
    Frame { regs := [x], draw := true } s t

/-! ### Index register, loads and stores (43_index_memory.md) -/

/-- R170, R171 and R172: I is set, added to modulo 4096, or pointed at a glyph; no flag is written. -/
def Obligations.IndexRegisterWrites : Prop :=
  (∀ op : Word, op &&& 0xF000#16 = 0xA000#16 → decodeWord op = .ok (.ldI (opNNN op))) ∧
  (∀ op : Word, op &&& 0xF0FF#16 = 0xF01E#16 → decodeWord op = .ok (.addI (opX op))) ∧
  (∀ op : Word, op &&& 0xF0FF#16 = 0xF029#16 → decodeWord op = .ok (.ldF (opX op))) ∧
  (∀ (nnn : Addr) (s : State), ∃ t, exec (.ldI nnn) s = .next t ∧ t.i = nnn ∧ Frame { i := true } s t) ∧
  (∀ (x : Reg) (s : State), ∃ t, exec (.addI x) s = .next t ∧
    t.i.toNat = (s.i.toNat + (s.getV x).toNat) % 4096 ∧ Frame { i := true } s t) ∧
  (∀ (x : Reg) (s : State), ∃ t, exec (.ldF x) s = .next t ∧
    t.i.toNat = 0x050 + (s.getV x).toNat % 16 * 5 ∧ Frame { i := true } s t)

/-- R173: the three decimal digits at I, I + 1, I + 2, modulo 4096; I and every other byte are unchanged. -/
def Obligations.BcdStoresThreeDigits : Prop :=
  (∀ op : Word, op &&& 0xF0FF#16 = 0xF033#16 → decodeWord op = .ok (.ldB (opX op))) ∧
  ∀ (x : Reg) (s : State), ∃ t, exec (.ldB x) s = .next t ∧
    (t.mem.read (s.indexAddr 0)).toNat = (s.getV x).toNat / 100 ∧
    (t.mem.read (s.indexAddr 1)).toNat = (s.getV x).toNat / 10 % 10 ∧
    (t.mem.read (s.indexAddr 2)).toNat = (s.getV x).toNat % 10 ∧
    Frame { mem := [s.indexAddr 0, s.indexAddr 1, s.indexAddr 2] } s t

/-- R174: V0..Vx at I..I+x modulo 4096; I moves by x + 1 exactly under `mem_quirk` (modulo 4096: decision D6); every other
byte is unchanged. -/
def Obligations.StoreRegistersToMemory : Prop :=
  (∀ op : Word, op &&& 0xF0FF#16 = 0xF055#16 → decodeWord op = .ok (.storeRegs (opX op))) ∧
  ∀ (x : Reg) (s : State), ∃ t, exec (.storeRegs x) s = .next t ∧
    (∀ r : Reg, r.toNat ≤ x.toNat → t.mem.read (s.indexAddr r.toNat) = s.getV r) ∧
    t.i.toNat = (if s.memQuirk then (s.i.toNat + x.toNat + 1) % 4096 else s.i.toNat) ∧
    Frame { mem := (List.range (x.toNat + 1)).map s.indexAddr, i := s.memQuirk } s t

/-- R175: V0..Vx from I..I+x modulo 4096, VF included when x = F; registers above Vx and all of memory are unchanged; I moves
by x + 1 exactly under `mem_quirk` (modulo 4096: decision D6). -/
def Obligations.LoadRegistersFromMemory : Prop :=
  (∀ op : Word, op &&& 0xF0FF#16 = 0xF065#16 → decodeWord op = .ok (.loadRegs (opX op))) ∧
  ∀ (x : Reg) (s : State), ∃ t, exec (.loadRegs x) s = .next t ∧
    (∀ r : Reg, t.getV r = if r.toNat ≤ x.toNat then s.mem.read (s.indexAddr r.toNat) else s.getV r) ∧
    t.i.toNat = (if s.memQuirk then (s.i.toNat + x.toNat + 1) % 4096 else s.i.toNat) ∧
    Frame { regs := (List.range (x.toNat + 1)).map regOf, i := s.memQuirk } s t

/-- R61: an access acts at its address modulo 4096, a read returns what was last written there, a write changes no other
byte, and the canonical form of memory (assumption log 1) is kept. -/
def Obligations.AccessesAreMaskedAndPrecise : Prop :=
  (∀ (m : Memory) (a b : Nat) (w : Byte), (m.write a w).read b = if b % 4096 = a % 4096 then w else m.read b) ∧
  (∀ (m : Memory) (a : Nat) (w : Byte), m.read (a % 4096) = m.read a ∧ m.write (a % 4096) w = m.write a w) ∧
  (∀ (m : Memory) (a : Nat) (w : Byte), m.wf = true → (m.write a w).wf = true)

/-- Self-modifying code (R74): after Fx55, a fetch at any pair of the stored addresses reads the stored registers. -/
def Obligations.FetchSeesStoredRegisters : Prop :=
  ∀ (x k : Reg) (s t : State), k.toNat < x.toNat → exec (.storeRegs x) s = .next t →
    (t.setPc (s.i + k.setWidth 12)).fetchWord = s.getV k ++ s.getV (k + 1#4)

/-! ### Display (44_display.md) -/

/-- R192: every pixel becomes 0 and the draw flag is set. -/
def Obligations.ClsClearsDisplay : Prop :=
  (∀ op : Word, op &&& 0xFFFF#16 = 0x00E0#16 → decodeWord op = .ok .cls) ∧
  ∀ s : State, ∃ t, exec .cls s = .next t ∧ (∀ px py, t.fb.pixel px py = false) ∧ t.drawFlag = true ∧
    Frame { display := true } s t

/-- R193 with R190 and R191: every pixel is XORed with the sprite bit that covers it, coordinates wrapping on each axis and
read before VF is written; VF is 1 exactly when a set pixel was covered by a 1 bit; the draw flag is set, n = 0 included
(decisions D2, D8, conflict C5). -/
def Obligations.DrawXorsSpriteAndReportsCollision : Prop :=
  (∀ op : Word, op &&& 0xF000#16 = 0xD000#16 → decodeWord op = .ok (.drw (opX op) (opY op) (opN op))) ∧
  ∀ (x y : Reg) (n : Nibble) (s : State) (rows : List Byte),
    rows = (List.range n.toNat).map (fun r => s.mem.read (s.indexAddr r)) →
    ∃ t, exec (.drw x y n) s = .next t ∧
      (∀ px py, t.fb.pixel px py = (s.fb.pixel px py ^^ coverBit (s.getV x) (s.getV y) rows px py)) ∧
      ((∃ px py, s.fb.pixel px py = true ∧ coverBit (s.getV x) (s.getV y) rows px py = true) → t.getV 0xF#4 = 1#8) ∧
      ((∀ px py, s.fb.pixel px py = true → coverBit (s.getV x) (s.getV y) rows px py = false) → t.getV 0xF#4 = 0#8) ∧
      t.drawFlag = true ∧ Frame { regs := [0xF#4], display := true } s t

/-- R194: the columns and the rows that one sprite visits are distinct, so no pixel is visited twice. -/
def Obligations.SpriteVisitsNoPixelTwice : Prop :=
  ∀ (xc yc : Byte) (r r' c c' : Nat), r < 15 → r' < 15 → c < 8 → c' < 8 →
    spriteCol xc c = spriteCol xc c' → spriteRow yc r = spriteRow yc r' → r = r' ∧ c = c'

/-- Drawing the same sprite twice at the same place (worked example W5 in general): the framebuffer is as before the first
draw, and the second draw collides exactly when the sprite has a 1 bit that the first draw set. -/
def Obligations.DrawingTwiceRestoresFramebuffer : Prop :=
  ∀ (x y : Reg) (n : Nibble) (s : State), x ≠ 0xF#4 → y ≠ 0xF#4 →
    ∃ t u, exec (.drw x y n) s = .next t ∧ exec (.drw x y n) t = .next u ∧ u.fb = s.fb ∧
      (u.getV 0xF#4 = 1#8 ↔ ∃ px py, coverBit (s.getV x) (s.getV y) (s.spriteRows n) px py = true ∧
        s.fb.pixel px py = false)

/-! ### Timers and keypad (45_timers_input.md) -/

/-- R210, R211 and R212: Vx from the delay timer, the delay and sound timers from Vx. -/
def Obligations.TimerTransfers : Prop :=
  (∀ op : Word, op &&& 0xF0FF#16 = 0xF007#16 → decodeWord op = .ok (.ldVxDT (opX op))) ∧
  (∀ op : Word, op &&& 0xF0FF#16 = 0xF015#16 → decodeWord op = .ok (.ldDTVx (opX op))) ∧
  (∀ op : Word, op &&& 0xF0FF#16 = 0xF018#16 → decodeWord op = .ok (.ldSTVx (opX op))) ∧
  (∀ (x : Reg) (s : State), ∃ t, exec (.ldVxDT x) s = .next t ∧ t.getV x = s.delayTimer ∧ Frame { regs := [x] } s t) ∧
  (∀ (x : Reg) (s : State), ∃ t, exec (.ldDTVx x) s = .next t ∧ t.delayTimer = s.getV x ∧
    Frame { delayTimer := true } s t) ∧
  (∀ (x : Reg) (s : State), ∃ t, exec (.ldSTVx x) s = .next t ∧ t.soundTimer = s.getV x ∧
    Frame { soundTimer := true } s t)

/-- R213 and R214 with the key index of R216: under `mask`, or when Vx is at most 0xF, Ex9E skips when the key is pressed and
ExA1 when it is not; the key is the low nibble of Vx (decision D7; the wrap of the skip is D5). -/
def Obligations.KeySkipsFollowKeypad : Prop :=
  (∀ op : Word, op &&& 0xF0FF#16 = 0xE09E#16 → decodeWord op = .ok (.skp (opX op))) ∧
  (∀ op : Word, op &&& 0xF0FF#16 = 0xE0A1#16 → decodeWord op = .ok (.sknp (opX op))) ∧
  (∀ (x k : Reg) (s : State), s.params.keyIndexPolicy = .mask ∨ (s.getV x).toNat ≤ 0xF →
    k.toNat = (s.getV x).toNat % 16 → ∃ t, exec (.skp x) s = .next t ∧
      t.pc.toNat = (if s.key k = true then (s.pc.toNat + 2) % 4096 else s.pc.toNat) ∧ Frame { pc := true } s t) ∧
  (∀ (x k : Reg) (s : State), s.params.keyIndexPolicy = .mask ∨ (s.getV x).toNat ≤ 0xF →
    k.toNat = (s.getV x).toNat % 16 → ∃ t, exec (.sknp x) s = .next t ∧
      t.pc.toNat = (if s.key k = true then s.pc.toNat else (s.pc.toNat + 2) % 4096) ∧ Frame { pc := true } s t)

/-- R216 and R235, the other policy: under `fault` a Vx above 0xF makes Ex9E and ExA1 raise KeyIndexOutOfRange, without a skip
and with no other change (decision D7). -/
def Obligations.KeyIndexFaultsUnderFaultPolicy : Prop :=
  ∀ (x : Reg) (i : Instr) (s : State), s.params.keyIndexPolicy = .fault → 0xF < (s.getV x).toNat →
    i = .skp x ∨ i = .sknp x →
    ∃ t, exec i s = .next t ∧ t.fault = .keyIndexOutOfRange ∧ Frame { fault := true } s t

/-- R215: Fx0A enters the wait state with target x and writes no register. -/
def Obligations.WaitForKeyEntersWaitState : Prop :=
  (∀ op : Word, op &&& 0xF0FF#16 = 0xF00A#16 → decodeWord op = .ok (.ldVxK (opX op))) ∧
  ∀ (x : Reg) (s : State), ∃ t, exec (.ldVxK x) s = .next t ∧ t.wait = .waiting x ∧ Frame { wait := true } s t

/-- R217 and R102: a waiting cycle latches the lowest pressed key and stops waiting, or changes nothing; it never fetches. The
draw slot is the model's own (assumption log 5). -/
def Obligations.WaitPollLatchesLowestKey : Prop :=
  (∀ (s : State) (r k : Reg), s.fault = .none → s.wait = .waiting r → s.key k = true →
    (∀ j : Reg, j.toNat < k.toNat → s.key j = false) →
    ∃ t, step s = .next t ∧ (t.getV r).toNat = k.toNat ∧ t.wait = .idle ∧ Frame { regs := [r], wait := true } s t ∧
      ∀ d, cycle d s = .next (.keyLatched k, t.setDraw none)) ∧
  (∀ (s : State) (r : Reg), s.fault = .none → s.wait = .waiting r → (∀ k, s.key k = false) →
    step s = .next s ∧ ∀ d, cycle d s = .next (.waiting, s.setDraw none))

/-! ### The cycle (40_cycle.md) -/

/-- R104: a running core reads the big-endian word at PC, advances PC by 2 modulo 4096 and executes the decoded instruction
on that state. -/
def Obligations.StepExecutesDecodedInstruction : Prop :=
  ∀ (s : State) (op : Word) (i : Instr), s.fault = .none → s.wait = .idle → s.pc.toNat + 1 < 4096 →
    op = ((s.mem.read s.pc.toNat).setWidth 16 <<< 8) ||| (s.mem.read (s.pc.toNat + 1)).setWidth 16 →
    decodeWord op = .ok i →
    ∃ a : Addr, a.toNat = (s.pc.toNat + 2) % 4096 ∧ step s = exec i (s.setPc a)

/-- R106: a word that matches no row changes nothing but PC, and the cycle reports it (decision D11). -/
def Obligations.UnknownOpcodeOnlyAdvancesPc : Prop :=
  ∀ (s : State) (d : Byte), s.Running → (∀ r ∈ opcodeTable, s.fetchWord &&& r.mask ≠ r.pattern) →
    ∃ t, step s = .next t ∧ t.pc.toNat = (s.pc.toNat + 2) % 4096 ∧ Frame { pc := true } s t ∧
      cycle d s = .next (.unknown s.fetchWord, t.setDraw none)

/-- R101 and R103: a halted core, and a core with PC = 0xFFF, changes no state however many cycles run, and says which it
is (decisions D10, D11). -/
def Obligations.HaltedAndBlockedCyclesChangeNothing : Prop :=
  (∀ (s : State) (n : Nat), s.fault ≠ .none → core.run n s = .next s) ∧
  (∀ (s : State) (d : Byte), s.fault ≠ .none → cycle d s = .next (.halted, s.setDraw none)) ∧
  (∀ (s : State) (n : Nat), s.fault = .none → s.wait = .idle → 4096 ≤ s.pc.toNat + 1 → core.run n s = .next s) ∧
  (∀ (s : State) (d : Byte), s.fault = .none → s.wait = .idle → 4096 ≤ s.pc.toNat + 1 →
    cycle d s = .next (.fetchBlocked, s.setDraw none))

/-- R105: exactly one instruction runs in a cycle of a running core; the result names the word, with the fault if the
instruction raised one (decision D11). -/
def Obligations.CycleReportsExecutedInstruction : Prop :=
  ∀ (s : State) (i : Instr) (d : Byte), s.Executes i →
    ∃ t, exec i (s.skip.setDraw (some d)) = .next t ∧
      cycle d s = .next
        ((match t.fault with
          | .none => CycleResult.executed s.fetchWord
          | .stackOverflow => CycleResult.stackOverflow s.fetchWord
          | .keyIndexOutOfRange => CycleResult.keyIndexOutOfRange s.fetchWord), t.setDraw none)

/-- R234: the complete effect of the cycle in which a CALL finds 16 entries, and the halt that follows it (decisions
D9, D10). -/
def Obligations.StackOverflowIsCompleteAndHalts : Prop :=
  ∀ (s : State) (nnn : Addr) (d : Byte), s.Executes (.call nnn) → s.stack.length = 16 →
    ∃ t, cycle d s = .next (.stackOverflow s.fetchWord, t) ∧ t.pc.toNat = (s.pc.toNat + 2) % 4096 ∧ t.stack = s.stack ∧
      t.fault = .stackOverflow ∧ t.draw = none ∧ t.drawCount = s.drawCount ∧
      Frame { pc := true, fault := true, draw := true } s t ∧ ∀ e, cycle e t = .next (.halted, t)

/-- Every cycle ends in a next state: no state, instruction or operand stops the machine (from R100, R236, R252). -/
def Obligations.EveryStepAnswersNext : Prop :=
  ∀ s : State, ∃ t, step s = .next t ∧ ∀ d, ∃ q, cycle d s = .next q

/-- R109: a cycle changes a timer only by executing Fx15 or Fx18, and never reads a clock. -/
def Obligations.CyclesLeaveTimersAlone : Prop :=
  ∀ s t : State, step s = .next t →
    (t.delayTimer = s.delayTimer ∨ ∃ x, s.Executes (.ldDTVx x) ∧ t.delayTimer = s.getV x) ∧
    (t.soundTimer = s.soundTimer ∨ ∃ x, s.Executes (.ldSTVx x) ∧ t.soundTimer = s.getV x)

/-- From R108 and R22: in a cycle VF changes only by an instruction with a flag side effect, by one whose destination is VF,
or by the latch of a key into VF. -/
def Obligations.OnlyFlagInstructionsChangeVf : Prop :=
  ∀ s t : State, step s = .next t → t.getV 0xF#4 ≠ s.getV 0xF#4 →
    s.wait = .waiting 0xF#4 ∨
    (∃ x y, s.Executes (.addReg x y) ∨ s.Executes (.subReg x y) ∨ s.Executes (.subn x y) ∨ s.Executes (.shr x y) ∨
      s.Executes (.shl x y) ∨ ∃ n, s.Executes (.drw x y n)) ∨
    (∃ kk, s.Executes (.ldImm 0xF#4 kk) ∨ s.Executes (.addImm 0xF#4 kk) ∨ s.Executes (.rnd 0xF#4 kk)) ∨
    (∃ y, s.Executes (.ldReg 0xF#4 y) ∨ s.Executes (.orReg 0xF#4 y) ∨ s.Executes (.andReg 0xF#4 y) ∨
      s.Executes (.xorReg 0xF#4 y)) ∨
    s.Executes (.ldVxDT 0xF#4) ∨ s.Executes (.loadRegs 0xF#4)

/-- From R108, R31, R33 and R34: no cycle writes the keypad, the quirks, the retained ROM or the parameters; the framebuffer
and the draw flag change only by 00E0 and Dxyn, and memory only by Fx33 and Fx55. -/
def Obligations.CyclesKeepHostOwnedState : Prop :=
  ∀ s t : State, step s = .next t →
    t.keys = s.keys ∧ t.shiftQuirk = s.shiftQuirk ∧ t.memQuirk = s.memQuirk ∧ t.rom = s.rom ∧ t.params = s.params ∧
    ((t.fb = s.fb ∧ t.drawFlag = s.drawFlag) ∨ s.Executes .cls ∨ ∃ x y n, s.Executes (.drw x y n)) ∧
    (t.mem = s.mem ∨ ∃ x, s.Executes (.ldB x) ∨ s.Executes (.storeRegs x))

/-- From R238, R123 and R216: the only ways into a fault state, and the only way into the wait state (R215). -/
def Obligations.FaultsAndWaitsHaveOneCause : Prop :=
  ∀ s t : State, step s = .next t →
    (t.fault ≠ s.fault →
      (t.fault = .stackOverflow ∧ 16 ≤ s.stack.length ∧ ∃ nnn, s.Executes (.call nnn)) ∨
      (t.fault = .keyIndexOutOfRange ∧ s.params.keyIndexPolicy = .fault ∧
        ∃ x, 0xF < (s.getV x).toNat ∧ (s.Executes (.skp x) ∨ s.Executes (.sknp x)))) ∧
    (∀ r, t.wait = .waiting r → s.wait = .waiting r ∨ s.Executes (.ldVxK r))

/-- R100, "`r` is the environment's random byte for this cycle, read only if the instruction is Cxkk": unless the cycle runs
Cxkk, its result and the state after do not depend on the draw. -/
def Obligations.DrawMattersOnlyToRnd : Prop :=
  ∀ (s : State) (d e : Byte), (∀ x kk, ¬ s.Executes (.rnd x kk)) → cycle d s = cycle e s

/-! ### Reset, loading, host operations (60_exceptions.md, 70_reset_and_hazards.md) -/

/-- R261: every element after a hard reset, memory byte by byte (decisions D13, D15). -/
def Obligations.HardResetValues : Prop :=
  ∀ s : State, ResetValues (resetOp true s) ∧ KeptByReset s (resetOp true s) ∧ (resetOp true s).rom = none ∧
    (∀ j : Fin 80, (resetOp true s).mem.read (0x050 + j.1) = s.params.font[j.1]) ∧
    (∀ a, a < 4096 → (a < 0x050 ∨ 0x0A0 ≤ a) → (resetOp true s).mem.read a = 0#8)

/-- R262: every element after a soft reset; the retained ROM is copied back and low memory is kept (decision D13).
The premise is the
invariant's bound on the ROM. -/
def Obligations.SoftResetValues : Prop :=
  ∀ s : State, s.romBytes.length ≤ 3584 →
    ResetValues (resetOp false s) ∧ KeptByReset s (resetOp false s) ∧ (resetOp false s).rom = s.rom ∧
    (∀ a, a < 0x200 → (resetOp false s).mem.read a = s.mem.read a) ∧
    (∀ j, j < s.romBytes.length → (resetOp false s).mem.read (0x200 + j) = s.romBytes.getD j 0#8) ∧
    (∀ a, 0x200 + s.romBytes.length ≤ a → a < 4096 → (resetOp false s).mem.read a = 0#8)

/-- R260: construction sets the quirks from its arguments, releases every key and then resets hard. `State.reset` is the block
constructed with the parameter and quirk values that assumption log 2 to 4 name (the model's choice, not a rule of the
spec). -/
def Obligations.ConstructionValues : Prop :=
  (∀ (p : Params) (a b : Bool), (construct p a b).shiftQuirk = a ∧ (construct p a b).memQuirk = b ∧
    (construct p a b).params = p ∧ (∀ k, (construct p a b).key k = false) ∧
    resetOp true (construct p a b) = construct p a b) ∧
  State.reset = construct defaultParams false false

/-- R264 and R231: a ROM that fits is retained and loaded by a soft reset; one that does not is rejected with its length and
changes nothing (decisions D16, D31). -/
def Obligations.LoadRomLoadsOrRejects : Prop :=
  (∀ (bytes : List Byte) (s : State), 4096 < 0x200 + bytes.length → loadRom bytes s = (.romTooLarge bytes.length, s)) ∧
  (∀ (bytes : List Byte) (s : State), 0x200 + bytes.length ≤ 4096 →
    ∃ t, loadRom bytes s = (.ok, t) ∧ t.rom = some bytes ∧ ResetValues t ∧ KeptByReset s t ∧
      (∀ j, j < bytes.length → t.mem.read (0x200 + j) = bytes.getD j 0#8) ∧
      (∀ a, 0x200 + bytes.length ≤ a → a < 4096 → t.mem.read a = 0#8) ∧
      (∀ a, a < 0x200 → t.mem.read a = s.mem.read a))

/-- R240 and R243: after n ticks each timer is its old value less n, never below 0, and nothing else has changed, whether the
core runs, waits or is halted (R243 is the spec's own decision D33). -/
def Obligations.TicksCountTimersDown : Prop :=
  ∀ (n : Nat) (s : State), ∃ t, tickTimers^[n] s = t ∧ t.delayTimer.toNat = s.delayTimer.toNat - n ∧
    t.soundTimer.toNat = s.soundTimer.toNat - n ∧ Frame { delayTimer := true, soundTimer := true } s t

/-- R244, R245, R246 and R266: the framebuffer read, the key input, the draw-flag hand-off and the quirk update, and what each
leaves alone. -/
def Obligations.HostAccessesAreExact : Prop :=
  (∀ s : State, (readFramebuffer s).length = 2048 ∧
    ∀ (px : Fin 64) (py : Fin 32), (readFramebuffer s)[py.1 * 64 + px.1]? = some (s.fb.pixel px py)) ∧
  (∀ (s : State) (k : Reg) (b : Bool), (∀ j, (setKey k b s).key j = if j = k then b else s.key j) ∧
    setKey k b s = { s with keys := (setKey k b s).keys }) ∧
  (∀ s : State, (takeDrawFlag s).1 = s.drawFlag ∧ (takeDrawFlag s).2 = { s with drawFlag := false } ∧
    (takeDrawFlag (takeDrawFlag s).2).1 = false) ∧
  (∀ (s : State) (a b : Bool), setQuirks a b s = { s with shiftQuirk := a, memQuirk := b })

/-- R239: a halted core leaves the halt only by a reset (load_rom resets) or a successful restore. -/
def Obligations.HaltEndsOnlyByResetOrRestore : Prop :=
  (∀ (c : Codec) (o : HostOp) (s : State) (q : HostResult × State), s.fault ≠ .none → o.apply c s = .next q →
    q.2.fault ≠ s.fault →
    (∃ hard, o = .reset hard) ∨ (∃ bytes, o = .loadRom bytes) ∨ (∃ b, o = .restore b ∧ q.1 = .restored .ok)) ∧
  (∀ (hard : Bool) (s : State), (resetOp hard s).fault = .none)

/-! ### Snapshot and restore (70_reset_and_hazards.md) -/

/-- R271: the layout of the snapshot, field by field (decision D18). The premise is the invariant's bounds on stack and ROM. -/
def Obligations.SnapshotLayout : Prop :=
  ∀ (s : State) (p : List Byte), s.Inv → p = encodeSnapshot s →
    p.length = 4422 + s.romBytes.length ∧ p.take 4 = [0x43#8, 0x38#8, 0x56#8, 0x4D#8] ∧ byteAt p 4 = 1 ∧
    (∀ a, a < 4096 → byteAt p (5 + a) = (s.mem.read a).toNat) ∧
    (∀ r : Reg, byteAt p (4101 + r.toNat) = (s.getV r).toNat) ∧
    wordAt p 4117 = s.i.toNat ∧ wordAt p 4119 = s.pc.toNat ∧ byteAt p 4121 = s.stack.length ∧
    (∀ k, k < 16 → wordAt p (4122 + 2 * k) = (s.stack.getD k 0#12).toNat) ∧
    byteAt p 4154 = s.delayTimer.toNat ∧ byteAt p 4155 = s.soundTimer.toNat ∧
    (∀ (px : Fin 64) (py : Fin 32), (byteAt p (4156 + (py.1 * 64 + px.1) / 8)).testBit (7 - (py.1 * 64 + px.1) % 8)
      = s.fb.pixel px py) ∧
    (∀ k : Reg, (wordAt p 4412).testBit k.toNat = s.key k) ∧
    byteAt p 4414 = s.drawFlag.toNat ∧
    (s.wait = .idle → byteAt p 4415 = 0 ∧ byteAt p 4416 = 0) ∧
    (∀ r, s.wait = .waiting r → byteAt p 4415 = 1 ∧ byteAt p 4416 = r.toNat) ∧
    byteAt p 4417 = s.shiftQuirk.toNat + 2 * s.memQuirk.toNat ∧
    byteAt p 4418 = (match s.fault with | .none => 0 | .stackOverflow => 1 | .keyIndexOutOfRange => 2) ∧
    byteAt p 4419 = s.rom.isSome.toNat ∧ wordAt p 4420 = s.romBytes.length ∧ p.drop 4422 = s.romBytes

/-- R274: decoding an encoded state gives every element of R20 back, and a snapshot restored on the same block is a no-op, for
every state that meets the invariant and every codec that meets the law of R275. -/
def Obligations.SnapshotRoundTrip : Prop :=
  (∀ keep s : State, s.Inv → decodeSnapshot keep (encodeSnapshot s) = some (s.keepOwn keep)) ∧
  (∀ (c : Codec) (s : State), c.Lawful → s.Inv → restore c (snapshot c s) s = (.ok, s))

/-- The validation of R273 accepts exactly the encodings of states: what decodes is a state that meets the invariant and
encodes to the same bytes (from R271, R273, R274). -/
def Obligations.DecodeAcceptsExactlyEncodings : Prop :=
  (∀ (keep t : State) (p : List Byte), decodeSnapshot keep p = some t → t.Inv ∧ encodeSnapshot t = p) ∧
  (∀ (keep : State) (p : List Byte), (∃ t, decodeSnapshot keep p = some t) ↔ ∃ s : State, s.Inv ∧ encodeSnapshot s = p)

/-- R272 and R232: restore succeeds with the state the decompressed bytes encode, or leaves the block exactly as it was; bytes
of another magic, version or length are refused. -/
def Obligations.RestoreIsAtomic : Prop :=
  (∀ (c : Codec) (b : List Byte) (s t : State), restore c b s = (.invalidSnapshot, t) → t = s) ∧
  (∀ (c : Codec) (b : List Byte) (s t : State), restore c b s = (.ok, t) → c.decompress b = some (encodeSnapshot t)) ∧
  (∀ (c : Codec) (b : List Byte) (s : State), c.decompress b = none → restore c b s = (.invalidSnapshot, s)) ∧
  (∀ (c : Codec) (b p : List Byte) (s : State), c.decompress b = some p →
    p.length < 4422 ∨ p.take 4 ≠ [0x43#8, 0x38#8, 0x56#8, 0x4D#8] ∨ p.getD 4 0#8 ≠ 1#8 →
    restore c b s = (.invalidSnapshot, s))

/-! ### Invariants -/

/-- The state after reset meets the invariant. -/
def Obligations.ResetStateMeetsInvariant : Prop := State.reset.Inv

/-- Every step keeps the invariant: canonical memory, at most 16 stack entries, a ROM of at most 3584 bytes (from R25, R34,
R35). -/
def Obligations.EveryStepKeepsInvariant : Prop :=
  ∀ s t : State, s.Inv → step s = .next t → t.Inv

/-- Every host operation keeps the invariant, so it holds after every run from construction (from R38, R40, R252). -/
def Obligations.EveryHostOperationKeepsInvariant : Prop :=
  (∀ (c : Codec) (o : HostOp) (s : State) (q : HostResult × State), s.Inv → o.apply c s = .next q → q.2.Inv) ∧
  (∀ (c : Codec) (os : List HostOp) (p : Params) (a b : Bool) (t : State),
    runHost c os (construct p a b) = .next t → t.Inv)
end

