-- ==== Sys2Proof/Laws/Memory.lean ====
section
/-! SUPPORT. The laws of memory: a read after a write, the canonical form kept by every memory operation, and equal reads
make equal lists. -/

namespace Sys2Proof.Machine

/-! ### Lookup after store, read after write -/

theorem Memory.lookup_erase (m : Memory) (a c : Nat) :
    Memory.lookup (Memory.erase m a) c = if c = a then Memory.background c else Memory.lookup m c := by
  induction m with
  | nil => simp [Memory.erase, Memory.lookup]
  | cons p m ih =>
    obtain ⟨b, u⟩ := p
    simp only [Memory.erase, List.filter_cons] at ih ⊢
    by_cases hb : b = a <;> by_cases hc : c = a <;> by_cases hcb : c = b <;> simp_all [Memory.lookup]

theorem Memory.lookup_insert (m : Memory) (a c : Nat) (w : Byte) (h : ∀ p ∈ m, p.1 ≠ a) :
    Memory.lookup (Memory.insert m a w) c = if c = a then w else Memory.lookup m c := by
  induction m with
  | nil => rfl
  | cons p m ih =>
    obtain ⟨b, u⟩ := p
    have hb : b ≠ a := h _ (List.mem_cons_self ..)
    have ih := ih fun q hq => h q (List.mem_cons_of_mem _ hq)
    simp only [Memory.insert]
    split
    · rfl
    · by_cases hc : c = b
      · subst hc; simp [Memory.lookup, hb]
      · simp [Memory.lookup, hc, ih]

theorem Memory.lookup_store (m : Memory) (a c : Nat) (w : Byte) :
    Memory.lookup (Memory.store m a w) c = if c = a then w else Memory.lookup m c := by
  unfold Memory.store
  split
  · next h => rw [Memory.lookup_erase]; split <;> simp_all
  · rw [Memory.lookup_insert _ _ _ _ (by simp [Memory.erase]), Memory.lookup_erase]; split <;> simp_all

/-- All a write does, seen through the read of one byte: the byte at `a mod 4096` and no other. -/
theorem Memory.read_write (m : Memory) (a c : Nat) (w : Byte) :
    (m.write a w).read c = if c % 4096 = a % 4096 then w else m.read c :=
  Memory.lookup_store ..

theorem Memory.read_mod (m : Memory) (a : Nat) : m.read (a % 4096) = m.read a := by simp [Memory.read]

/-- Reading back a byte sequence written below the top of memory. -/
theorem Memory.read_writeBytes (ws : List Byte) (m : Memory) (a c : Nat) (hfit : a + ws.length ≤ 4096) (hc : c < 4096) :
    (m.writeBytes a ws).read c = if a ≤ c ∧ c < a + ws.length then ws.getD (c - a) 0#8 else m.read c := by
  induction ws generalizing m a with
  | nil => simp only [Memory.writeBytes, List.length_nil]; rw [if_neg (by omega)]
  | cons w ws ih =>
    simp only [List.length_cons] at hfit ⊢
    rw [Memory.writeBytes, ih _ _ (by omega), Memory.read_write]
    rw [Nat.mod_eq_of_lt hc, Nat.mod_eq_of_lt (show a < 4096 by omega)]
    rcases Nat.lt_trichotomy c a with h | h | h
    · rw [if_neg (by omega), if_neg (by omega), if_neg (by omega)]
    · subst h; rw [if_neg (by omega), if_pos rfl, if_pos (by omega)]; simp
    · rw [if_neg (show ¬ c = a by omega)]
      obtain ⟨d, rfl⟩ := Nat.exists_eq_add_of_lt h
      have e1 : a + d + 1 - (a + 1) = d := by omega
      have e2 : a + d + 1 - a = d + 1 := by omega
      simp only [e1, e2, List.getD_cons_succ]
      split_ifs <;> first | rfl | omega

/-- A soft reset's clearing: 0 from 0x200 up, nothing below. -/
theorem Memory.read_clearProgram (m : Memory) (c : Nat) (hc : c < 4096) :
    m.clearProgram.read c = if c < 0x200 then m.read c else 0#8 := by
  simp only [Memory.read, Nat.mod_eq_of_lt (show c < Config.memSize from hc)]
  induction m with
  | nil =>
    simp only [Memory.clearProgram, List.filter_nil, Memory.lookup, Memory.background, Config.fontBase, Config.fontSize]
    split_ifs <;> first | rfl | omega
  | cons p m ih =>
    obtain ⟨b, u⟩ := p
    simp only [Memory.clearProgram, List.filter_cons] at ih ⊢
    by_cases hb : b < 0x200 <;> by_cases hcb : c = b
    · subst hcb; simp [Memory.lookup, hb]
    · simp [Memory.lookup, hb, hcb, ih]
    · subst hcb; simp [hb, ih]
    · simp [Memory.lookup, hb, hcb, ih]

/-! ### The canonical form -/

theorem Memory.wfFrom_mono {lo lo' : Nat} (h : lo' ≤ lo) (m : Memory) (hm : Memory.wfFrom lo m = true) :
    Memory.wfFrom lo' m = true := by
  cases m with
  | nil => rfl
  | cons p m =>
    obtain ⟨b, u⟩ := p
    simp only [Memory.wfFrom, Bool.and_eq_true, decide_eq_true_eq] at hm ⊢
    exact ⟨⟨⟨by omega, hm.1.1.2⟩, hm.1.2⟩, hm.2⟩

theorem Memory.le_of_mem_wfFrom {lo : Nat} {m : Memory} (h : Memory.wfFrom lo m = true) : ∀ p ∈ m, lo ≤ p.1 := by
  induction m generalizing lo with
  | nil => simp
  | cons q m ih =>
    obtain ⟨b, u⟩ := q
    simp only [Memory.wfFrom, Bool.and_eq_true, decide_eq_true_eq] at h
    intro p hp
    rcases List.mem_cons.1 hp with rfl | hp
    · exact h.1.1.1
    · have := ih h.2 p hp; omega

theorem Memory.wfFrom_filter (f : Host.Cell → Bool) {lo : Nat} {m : Memory} (h : Memory.wfFrom lo m = true) :
    Memory.wfFrom lo (m.filter f) = true := by
  induction m generalizing lo with
  | nil => rfl
  | cons p m ih =>
    obtain ⟨b, u⟩ := p
    simp only [Memory.wfFrom, Bool.and_eq_true, decide_eq_true_eq] at h
    rw [List.filter_cons]
    split
    · simp only [Memory.wfFrom, Bool.and_eq_true, decide_eq_true_eq]; exact ⟨h.1, ih h.2⟩
    · exact Memory.wfFrom_mono (by omega) _ (ih h.2)

theorem Memory.wfFrom_insert {lo a : Nat} {w : Byte} {m : Memory} (hlo : lo ≤ a) (ha : a < 4096)
    (hw : w ≠ Memory.background a) (hne : ∀ p ∈ m, p.1 ≠ a) (h : Memory.wfFrom lo m = true) :
    Memory.wfFrom lo (Memory.insert m a w) = true := by
  induction m generalizing lo with
  | nil => simp [Memory.insert, Memory.wfFrom, hlo, ha, hw]
  | cons p m ih =>
    obtain ⟨b, u⟩ := p
    have hb : b ≠ a := hne _ (List.mem_cons_self ..)
    simp only [Memory.wfFrom, Bool.and_eq_true, decide_eq_true_eq] at h
    simp only [Memory.insert]
    split
    · simp only [Memory.wfFrom, Bool.and_eq_true, decide_eq_true_eq]
      exact ⟨⟨⟨hlo, ha⟩, hw⟩, ⟨⟨by omega, h.1.1.2⟩, h.1.2⟩, h.2⟩
    · simp only [Memory.wfFrom, Bool.and_eq_true, decide_eq_true_eq]
      exact ⟨h.1, ih (by omega) (fun q hq => hne q (List.mem_cons_of_mem _ hq)) h.2⟩

/-- A write keeps the canonical form. -/
theorem Memory.wf_write {m : Memory} (h : m.wf = true) (a : Nat) (w : Byte) : (m.write a w).wf = true := by
  unfold Memory.wf Memory.write Memory.store
  split
  · exact Memory.wfFrom_filter _ h
  · next hw =>
    exact Memory.wfFrom_insert (Nat.zero_le _) (Nat.mod_lt _ (by decide)) hw (by simp [Memory.erase])
      (Memory.wfFrom_filter _ h)

/-- Writing a byte sequence keeps the canonical form. -/
theorem Memory.wf_writeBytes (ws : List Byte) {m : Memory} (h : m.wf = true) (a : Nat) : (m.writeBytes a ws).wf = true := by
  induction ws generalizing m a with
  | nil => exact h
  | cons w ws ih => exact ih (Memory.wf_write h a w) (a + 1)

/-- Clearing the program region keeps the canonical form. -/
theorem Memory.wf_clearProgram {m : Memory} (h : m.wf = true) : m.clearProgram.wf = true := Memory.wfFrom_filter _ h

/-! ### Equal reads make equal memories -/

theorem Memory.lookup_of_lt {lo : Nat} {m : Memory} (h : Memory.wfFrom lo m = true) {a : Nat} (ha : a < lo) :
    Memory.lookup m a = Memory.background a := by
  induction m generalizing lo with
  | nil => rfl
  | cons p m ih =>
    obtain ⟨b, u⟩ := p
    simp only [Memory.wfFrom, Bool.and_eq_true, decide_eq_true_eq] at h
    simp only [Memory.lookup]
    rw [if_neg (by omega)]
    exact ih h.2 (by omega)

theorem Memory.eq_of_lookup {lo : Nat} {m n : Memory} (hm : Memory.wfFrom lo m = true) (hn : Memory.wfFrom lo n = true)
    (h : ∀ a, a < 4096 → Memory.lookup m a = Memory.lookup n a) : m = n := by
  induction m generalizing lo n with
  | nil =>
    cases n with
    | nil => rfl
    | cons q n =>
      obtain ⟨c, w⟩ := q
      simp only [Memory.wfFrom, Bool.and_eq_true, decide_eq_true_eq] at hn
      have := h c hn.1.1.2
      simp [Memory.lookup] at this
      exact absurd this.symm hn.1.2
  | cons p m ih =>
    obtain ⟨b, u⟩ := p
    have hm0 := hm
    simp only [Memory.wfFrom, Bool.and_eq_true, decide_eq_true_eq] at hm
    cases n with
    | nil =>
      have := h b hm.1.1.2
      simp [Memory.lookup] at this
      exact absurd this hm.1.2
    | cons q n =>
      obtain ⟨c, w⟩ := q
      have hn0 := hn
      simp only [Memory.wfFrom, Bool.and_eq_true, decide_eq_true_eq] at hn
      have hbc : b = c := by
        rcases Nat.lt_trichotomy b c with hlt | heq | hgt
        · have h1 := h b hm.1.1.2
          simp only [Memory.lookup, if_true] at h1
          rw [if_neg (by omega), Memory.lookup_of_lt hn.2 (by omega)] at h1
          exact absurd h1 hm.1.2
        · exact heq
        · have h1 := h c hn.1.1.2
          simp only [Memory.lookup, if_true] at h1
          rw [if_neg (by omega), Memory.lookup_of_lt hm.2 (by omega)] at h1
          exact absurd h1.symm hn.1.2
      subst hbc
      have huw : u = w := by simpa [Memory.lookup] using h b hm.1.1.2
      subst huw
      rw [ih hm.2 hn.2 fun a ha => ?_]
      have h1 := h a ha
      simp only [Memory.lookup] at h1
      by_cases hab : a = b
      · subst hab
        rw [Memory.lookup_of_lt hm.2 (by omega), Memory.lookup_of_lt hn.2 (by omega)]
      · simpa [hab] using h1

/-- Two canonical memories with equal bytes are the same list. -/
theorem Memory.eq_of_read {m n : Memory} (hm : m.wf = true) (hn : n.wf = true)
    (h : ∀ a, a < 4096 → m.read a = n.read a) : m = n :=
  Memory.eq_of_lookup hm hn fun a ha => by
    have := h a ha
    rwa [Memory.read, Memory.read, Nat.mod_eq_of_lt (show a < Config.memSize from ha)] at this

/-! ### Memory from a byte sequence (the snapshot's mem field) -/

theorem Memory.wfFrom_ofBytes (bs : List Byte) (a : Nat) (h : a + bs.length ≤ 4096) :
    Memory.wfFrom a (Memory.ofBytes a bs) = true := by
  induction bs generalizing a with
  | nil => rfl
  | cons b bs ih =>
    simp only [List.length_cons] at h
    simp only [Memory.ofBytes]
    split
    · exact Memory.wfFrom_mono (by omega) _ (ih (a + 1) (by omega))
    · next hb =>
      simp only [Memory.wfFrom, Bool.and_eq_true, decide_eq_true_eq]
      exact ⟨⟨⟨Nat.le_refl _, show a < 4096 by omega⟩, hb⟩, ih (a + 1) (by omega)⟩

theorem Memory.lookup_ofBytes (bs : List Byte) (a c : Nat) (h : a + bs.length ≤ 4096) :
    Memory.lookup (Memory.ofBytes a bs) c =
      if a ≤ c ∧ c < a + bs.length then bs.getD (c - a) 0#8 else Memory.background c := by
  induction bs generalizing a with
  | nil => simp only [Memory.ofBytes, Memory.lookup, List.length_nil]; rw [if_neg (by omega)]
  | cons b bs ih =>
    simp only [List.length_cons] at h ⊢
    have key : Memory.lookup (Memory.ofBytes a (b :: bs)) c =
        if c = a then b else Memory.lookup (Memory.ofBytes (a + 1) bs) c := by
      simp only [Memory.ofBytes]
      split
      · next hb =>
        by_cases hc : c = a
        · subst hc
          rw [if_pos rfl, Memory.lookup_of_lt (Memory.wfFrom_ofBytes bs (c + 1) (by omega)) (by omega), hb]
        · rw [if_neg hc]
      · rfl
    rw [key, ih _ (by omega)]
    rcases Nat.lt_trichotomy c a with h1 | h1 | h1
    · rw [if_neg (by omega), if_neg (by omega), if_neg (by omega)]
    · subst h1; rw [if_pos rfl, if_pos (by omega)]; simp
    · rw [if_neg (by omega)]
      obtain ⟨d, rfl⟩ := Nat.exists_eq_add_of_lt h1
      have e1 : a + d + 1 - (a + 1) = d := by omega
      have e2 : a + d + 1 - a = d + 1 := by omega
      simp only [e1, e2, List.getD_cons_succ]
      split_ifs <;> first | rfl | omega

end Sys2Proof.Machine
end

