-- ==== Sys2Proof/Laws/State.lean ====
section
/-! SUPPORT. One lemma per field per update of the state, so that no proof unfolds a record update. -/

namespace Sys2Proof.Machine

variable (s : State)

/-! ### setV -/

@[simp] theorem State.setV_mem (x : Reg) (b : Byte) : (s.setV x b).mem = s.mem := rfl
@[simp] theorem State.setV_v (x : Reg) (b : Byte) : (s.setV x b).v = s.v.set x.toNat b x.isLt := rfl
@[simp] theorem State.setV_i (x : Reg) (b : Byte) : (s.setV x b).i = s.i := rfl
@[simp] theorem State.setV_pc (x : Reg) (b : Byte) : (s.setV x b).pc = s.pc := rfl
@[simp] theorem State.setV_stack (x : Reg) (b : Byte) : (s.setV x b).stack = s.stack := rfl
@[simp] theorem State.setV_delayTimer (x : Reg) (b : Byte) : (s.setV x b).delayTimer = s.delayTimer := rfl
@[simp] theorem State.setV_soundTimer (x : Reg) (b : Byte) : (s.setV x b).soundTimer = s.soundTimer := rfl
@[simp] theorem State.setV_fb (x : Reg) (b : Byte) : (s.setV x b).fb = s.fb := rfl
@[simp] theorem State.setV_drawFlag (x : Reg) (b : Byte) : (s.setV x b).drawFlag = s.drawFlag := rfl
@[simp] theorem State.setV_keys (x : Reg) (b : Byte) : (s.setV x b).keys = s.keys := rfl
@[simp] theorem State.setV_wait (x : Reg) (b : Byte) : (s.setV x b).wait = s.wait := rfl
@[simp] theorem State.setV_shiftQuirk (x : Reg) (b : Byte) : (s.setV x b).shiftQuirk = s.shiftQuirk := rfl
@[simp] theorem State.setV_memQuirk (x : Reg) (b : Byte) : (s.setV x b).memQuirk = s.memQuirk := rfl
@[simp] theorem State.setV_rom (x : Reg) (b : Byte) : (s.setV x b).rom = s.rom := rfl
@[simp] theorem State.setV_fault (x : Reg) (b : Byte) : (s.setV x b).fault = s.fault := rfl
@[simp] theorem State.setV_params (x : Reg) (b : Byte) : (s.setV x b).params = s.params := rfl
@[simp] theorem State.setV_draw (x : Reg) (b : Byte) : (s.setV x b).draw = s.draw := rfl
@[simp] theorem State.setV_drawCount (x : Reg) (b : Byte) : (s.setV x b).drawCount = s.drawCount := rfl
@[simp] theorem State.setV_key (x : Reg) (b : Byte) : (s.setV x b).key = s.key := rfl
@[simp] theorem State.setV_indexAddr (x : Reg) (b : Byte) : (s.setV x b).indexAddr = s.indexAddr := rfl

/-! ### setI -/

@[simp] theorem State.setI_mem (a : Addr) : (s.setI a).mem = s.mem := rfl
@[simp] theorem State.setI_v (a : Addr) : (s.setI a).v = s.v := rfl
@[simp] theorem State.setI_i (a : Addr) : (s.setI a).i = a := rfl
@[simp] theorem State.setI_pc (a : Addr) : (s.setI a).pc = s.pc := rfl
@[simp] theorem State.setI_stack (a : Addr) : (s.setI a).stack = s.stack := rfl
@[simp] theorem State.setI_delayTimer (a : Addr) : (s.setI a).delayTimer = s.delayTimer := rfl
@[simp] theorem State.setI_soundTimer (a : Addr) : (s.setI a).soundTimer = s.soundTimer := rfl
@[simp] theorem State.setI_fb (a : Addr) : (s.setI a).fb = s.fb := rfl
@[simp] theorem State.setI_drawFlag (a : Addr) : (s.setI a).drawFlag = s.drawFlag := rfl
@[simp] theorem State.setI_keys (a : Addr) : (s.setI a).keys = s.keys := rfl
@[simp] theorem State.setI_wait (a : Addr) : (s.setI a).wait = s.wait := rfl
@[simp] theorem State.setI_shiftQuirk (a : Addr) : (s.setI a).shiftQuirk = s.shiftQuirk := rfl
@[simp] theorem State.setI_memQuirk (a : Addr) : (s.setI a).memQuirk = s.memQuirk := rfl
@[simp] theorem State.setI_rom (a : Addr) : (s.setI a).rom = s.rom := rfl
@[simp] theorem State.setI_fault (a : Addr) : (s.setI a).fault = s.fault := rfl
@[simp] theorem State.setI_params (a : Addr) : (s.setI a).params = s.params := rfl
@[simp] theorem State.setI_draw (a : Addr) : (s.setI a).draw = s.draw := rfl
@[simp] theorem State.setI_drawCount (a : Addr) : (s.setI a).drawCount = s.drawCount := rfl
@[simp] theorem State.setI_getV (a : Addr) : (s.setI a).getV = s.getV := rfl
@[simp] theorem State.setI_key (a : Addr) : (s.setI a).key = s.key := rfl

/-! ### setPc -/

@[simp] theorem State.setPc_mem (a : Addr) : (s.setPc a).mem = s.mem := rfl
@[simp] theorem State.setPc_v (a : Addr) : (s.setPc a).v = s.v := rfl
@[simp] theorem State.setPc_i (a : Addr) : (s.setPc a).i = s.i := rfl
@[simp] theorem State.setPc_pc (a : Addr) : (s.setPc a).pc = a := rfl
@[simp] theorem State.setPc_stack (a : Addr) : (s.setPc a).stack = s.stack := rfl
@[simp] theorem State.setPc_delayTimer (a : Addr) : (s.setPc a).delayTimer = s.delayTimer := rfl
@[simp] theorem State.setPc_soundTimer (a : Addr) : (s.setPc a).soundTimer = s.soundTimer := rfl
@[simp] theorem State.setPc_fb (a : Addr) : (s.setPc a).fb = s.fb := rfl
@[simp] theorem State.setPc_drawFlag (a : Addr) : (s.setPc a).drawFlag = s.drawFlag := rfl
@[simp] theorem State.setPc_keys (a : Addr) : (s.setPc a).keys = s.keys := rfl
@[simp] theorem State.setPc_wait (a : Addr) : (s.setPc a).wait = s.wait := rfl
@[simp] theorem State.setPc_shiftQuirk (a : Addr) : (s.setPc a).shiftQuirk = s.shiftQuirk := rfl
@[simp] theorem State.setPc_memQuirk (a : Addr) : (s.setPc a).memQuirk = s.memQuirk := rfl
@[simp] theorem State.setPc_rom (a : Addr) : (s.setPc a).rom = s.rom := rfl
@[simp] theorem State.setPc_fault (a : Addr) : (s.setPc a).fault = s.fault := rfl
@[simp] theorem State.setPc_params (a : Addr) : (s.setPc a).params = s.params := rfl
@[simp] theorem State.setPc_draw (a : Addr) : (s.setPc a).draw = s.draw := rfl
@[simp] theorem State.setPc_drawCount (a : Addr) : (s.setPc a).drawCount = s.drawCount := rfl
@[simp] theorem State.setPc_getV (a : Addr) : (s.setPc a).getV = s.getV := rfl
@[simp] theorem State.setPc_key (a : Addr) : (s.setPc a).key = s.key := rfl
@[simp] theorem State.setPc_indexAddr (a : Addr) : (s.setPc a).indexAddr = s.indexAddr := rfl

/-! ### skip -/

@[simp] theorem State.skip_mem : (s.skip).mem = s.mem := rfl
@[simp] theorem State.skip_v : (s.skip).v = s.v := rfl
@[simp] theorem State.skip_i : (s.skip).i = s.i := rfl
@[simp] theorem State.skip_pc : (s.skip).pc = s.pc + 2#12 := rfl
@[simp] theorem State.skip_stack : (s.skip).stack = s.stack := rfl
@[simp] theorem State.skip_delayTimer : (s.skip).delayTimer = s.delayTimer := rfl
@[simp] theorem State.skip_soundTimer : (s.skip).soundTimer = s.soundTimer := rfl
@[simp] theorem State.skip_fb : (s.skip).fb = s.fb := rfl
@[simp] theorem State.skip_drawFlag : (s.skip).drawFlag = s.drawFlag := rfl
@[simp] theorem State.skip_keys : (s.skip).keys = s.keys := rfl
@[simp] theorem State.skip_wait : (s.skip).wait = s.wait := rfl
@[simp] theorem State.skip_shiftQuirk : (s.skip).shiftQuirk = s.shiftQuirk := rfl
@[simp] theorem State.skip_memQuirk : (s.skip).memQuirk = s.memQuirk := rfl
@[simp] theorem State.skip_rom : (s.skip).rom = s.rom := rfl
@[simp] theorem State.skip_fault : (s.skip).fault = s.fault := rfl
@[simp] theorem State.skip_params : (s.skip).params = s.params := rfl
@[simp] theorem State.skip_draw : (s.skip).draw = s.draw := rfl
@[simp] theorem State.skip_drawCount : (s.skip).drawCount = s.drawCount := rfl
@[simp] theorem State.skip_getV : (s.skip).getV = s.getV := rfl
@[simp] theorem State.skip_key : (s.skip).key = s.key := rfl
@[simp] theorem State.skip_indexAddr : (s.skip).indexAddr = s.indexAddr := rfl

/-! ### skipIf -/

@[simp] theorem State.skipIf_mem (c : Bool) : (s.skipIf c).mem = s.mem := by unfold State.skipIf; split <;> rfl
@[simp] theorem State.skipIf_v (c : Bool) : (s.skipIf c).v = s.v := by unfold State.skipIf; split <;> rfl
@[simp] theorem State.skipIf_i (c : Bool) : (s.skipIf c).i = s.i := by unfold State.skipIf; split <;> rfl
@[simp] theorem State.skipIf_pc (c : Bool) : (s.skipIf c).pc = if c then s.pc + 2#12 else s.pc := by unfold State.skipIf; split <;> rfl
@[simp] theorem State.skipIf_stack (c : Bool) : (s.skipIf c).stack = s.stack := by unfold State.skipIf; split <;> rfl
@[simp] theorem State.skipIf_delayTimer (c : Bool) : (s.skipIf c).delayTimer = s.delayTimer := by unfold State.skipIf; split <;> rfl
@[simp] theorem State.skipIf_soundTimer (c : Bool) : (s.skipIf c).soundTimer = s.soundTimer := by unfold State.skipIf; split <;> rfl
@[simp] theorem State.skipIf_fb (c : Bool) : (s.skipIf c).fb = s.fb := by unfold State.skipIf; split <;> rfl
@[simp] theorem State.skipIf_drawFlag (c : Bool) : (s.skipIf c).drawFlag = s.drawFlag := by unfold State.skipIf; split <;> rfl
@[simp] theorem State.skipIf_keys (c : Bool) : (s.skipIf c).keys = s.keys := by unfold State.skipIf; split <;> rfl
@[simp] theorem State.skipIf_wait (c : Bool) : (s.skipIf c).wait = s.wait := by unfold State.skipIf; split <;> rfl
@[simp] theorem State.skipIf_shiftQuirk (c : Bool) : (s.skipIf c).shiftQuirk = s.shiftQuirk := by unfold State.skipIf; split <;> rfl
@[simp] theorem State.skipIf_memQuirk (c : Bool) : (s.skipIf c).memQuirk = s.memQuirk := by unfold State.skipIf; split <;> rfl
@[simp] theorem State.skipIf_rom (c : Bool) : (s.skipIf c).rom = s.rom := by unfold State.skipIf; split <;> rfl
@[simp] theorem State.skipIf_fault (c : Bool) : (s.skipIf c).fault = s.fault := by unfold State.skipIf; split <;> rfl
@[simp] theorem State.skipIf_params (c : Bool) : (s.skipIf c).params = s.params := by unfold State.skipIf; split <;> rfl
@[simp] theorem State.skipIf_draw (c : Bool) : (s.skipIf c).draw = s.draw := by unfold State.skipIf; split <;> rfl
@[simp] theorem State.skipIf_drawCount (c : Bool) : (s.skipIf c).drawCount = s.drawCount := by unfold State.skipIf; split <;> rfl
@[simp] theorem State.skipIf_getV (c : Bool) : (s.skipIf c).getV = s.getV := by unfold State.skipIf; split <;> rfl
@[simp] theorem State.skipIf_key (c : Bool) : (s.skipIf c).key = s.key := by unfold State.skipIf; split <;> rfl
@[simp] theorem State.skipIf_indexAddr (c : Bool) : (s.skipIf c).indexAddr = s.indexAddr := by unfold State.skipIf; split <;> rfl

/-! ### setMem -/

@[simp] theorem State.setMem_mem (m : Memory) : (s.setMem m).mem = m := rfl
@[simp] theorem State.setMem_v (m : Memory) : (s.setMem m).v = s.v := rfl
@[simp] theorem State.setMem_i (m : Memory) : (s.setMem m).i = s.i := rfl
@[simp] theorem State.setMem_pc (m : Memory) : (s.setMem m).pc = s.pc := rfl
@[simp] theorem State.setMem_stack (m : Memory) : (s.setMem m).stack = s.stack := rfl
@[simp] theorem State.setMem_delayTimer (m : Memory) : (s.setMem m).delayTimer = s.delayTimer := rfl
@[simp] theorem State.setMem_soundTimer (m : Memory) : (s.setMem m).soundTimer = s.soundTimer := rfl
@[simp] theorem State.setMem_fb (m : Memory) : (s.setMem m).fb = s.fb := rfl
@[simp] theorem State.setMem_drawFlag (m : Memory) : (s.setMem m).drawFlag = s.drawFlag := rfl
@[simp] theorem State.setMem_keys (m : Memory) : (s.setMem m).keys = s.keys := rfl
@[simp] theorem State.setMem_wait (m : Memory) : (s.setMem m).wait = s.wait := rfl
@[simp] theorem State.setMem_shiftQuirk (m : Memory) : (s.setMem m).shiftQuirk = s.shiftQuirk := rfl
@[simp] theorem State.setMem_memQuirk (m : Memory) : (s.setMem m).memQuirk = s.memQuirk := rfl
@[simp] theorem State.setMem_rom (m : Memory) : (s.setMem m).rom = s.rom := rfl
@[simp] theorem State.setMem_fault (m : Memory) : (s.setMem m).fault = s.fault := rfl
@[simp] theorem State.setMem_params (m : Memory) : (s.setMem m).params = s.params := rfl
@[simp] theorem State.setMem_draw (m : Memory) : (s.setMem m).draw = s.draw := rfl
@[simp] theorem State.setMem_drawCount (m : Memory) : (s.setMem m).drawCount = s.drawCount := rfl
@[simp] theorem State.setMem_getV (m : Memory) : (s.setMem m).getV = s.getV := rfl
@[simp] theorem State.setMem_key (m : Memory) : (s.setMem m).key = s.key := rfl
@[simp] theorem State.setMem_indexAddr (m : Memory) : (s.setMem m).indexAddr = s.indexAddr := rfl

/-! ### push -/

@[simp] theorem State.push_mem (a : Addr) : (s.push a).mem = s.mem := rfl
@[simp] theorem State.push_v (a : Addr) : (s.push a).v = s.v := rfl
@[simp] theorem State.push_i (a : Addr) : (s.push a).i = s.i := rfl
@[simp] theorem State.push_pc (a : Addr) : (s.push a).pc = s.pc := rfl
@[simp] theorem State.push_stack (a : Addr) : (s.push a).stack = s.stack ++ [a] := rfl
@[simp] theorem State.push_delayTimer (a : Addr) : (s.push a).delayTimer = s.delayTimer := rfl
@[simp] theorem State.push_soundTimer (a : Addr) : (s.push a).soundTimer = s.soundTimer := rfl
@[simp] theorem State.push_fb (a : Addr) : (s.push a).fb = s.fb := rfl
@[simp] theorem State.push_drawFlag (a : Addr) : (s.push a).drawFlag = s.drawFlag := rfl
@[simp] theorem State.push_keys (a : Addr) : (s.push a).keys = s.keys := rfl
@[simp] theorem State.push_wait (a : Addr) : (s.push a).wait = s.wait := rfl
@[simp] theorem State.push_shiftQuirk (a : Addr) : (s.push a).shiftQuirk = s.shiftQuirk := rfl
@[simp] theorem State.push_memQuirk (a : Addr) : (s.push a).memQuirk = s.memQuirk := rfl
@[simp] theorem State.push_rom (a : Addr) : (s.push a).rom = s.rom := rfl
@[simp] theorem State.push_fault (a : Addr) : (s.push a).fault = s.fault := rfl
@[simp] theorem State.push_params (a : Addr) : (s.push a).params = s.params := rfl
@[simp] theorem State.push_draw (a : Addr) : (s.push a).draw = s.draw := rfl
@[simp] theorem State.push_drawCount (a : Addr) : (s.push a).drawCount = s.drawCount := rfl
@[simp] theorem State.push_getV (a : Addr) : (s.push a).getV = s.getV := rfl
@[simp] theorem State.push_key (a : Addr) : (s.push a).key = s.key := rfl
@[simp] theorem State.push_indexAddr (a : Addr) : (s.push a).indexAddr = s.indexAddr := rfl

/-! ### dropTop -/

@[simp] theorem State.dropTop_mem : (s.dropTop).mem = s.mem := rfl
@[simp] theorem State.dropTop_v : (s.dropTop).v = s.v := rfl
@[simp] theorem State.dropTop_i : (s.dropTop).i = s.i := rfl
@[simp] theorem State.dropTop_pc : (s.dropTop).pc = s.pc := rfl
@[simp] theorem State.dropTop_stack : (s.dropTop).stack = s.stack.dropLast := rfl
@[simp] theorem State.dropTop_delayTimer : (s.dropTop).delayTimer = s.delayTimer := rfl
@[simp] theorem State.dropTop_soundTimer : (s.dropTop).soundTimer = s.soundTimer := rfl
@[simp] theorem State.dropTop_fb : (s.dropTop).fb = s.fb := rfl
@[simp] theorem State.dropTop_drawFlag : (s.dropTop).drawFlag = s.drawFlag := rfl
@[simp] theorem State.dropTop_keys : (s.dropTop).keys = s.keys := rfl
@[simp] theorem State.dropTop_wait : (s.dropTop).wait = s.wait := rfl
@[simp] theorem State.dropTop_shiftQuirk : (s.dropTop).shiftQuirk = s.shiftQuirk := rfl
@[simp] theorem State.dropTop_memQuirk : (s.dropTop).memQuirk = s.memQuirk := rfl
@[simp] theorem State.dropTop_rom : (s.dropTop).rom = s.rom := rfl
@[simp] theorem State.dropTop_fault : (s.dropTop).fault = s.fault := rfl
@[simp] theorem State.dropTop_params : (s.dropTop).params = s.params := rfl
@[simp] theorem State.dropTop_draw : (s.dropTop).draw = s.draw := rfl
@[simp] theorem State.dropTop_drawCount : (s.dropTop).drawCount = s.drawCount := rfl
@[simp] theorem State.dropTop_getV : (s.dropTop).getV = s.getV := rfl
@[simp] theorem State.dropTop_key : (s.dropTop).key = s.key := rfl
@[simp] theorem State.dropTop_indexAddr : (s.dropTop).indexAddr = s.indexAddr := rfl

/-! ### setDelay -/

@[simp] theorem State.setDelay_mem (b : Byte) : (s.setDelay b).mem = s.mem := rfl
@[simp] theorem State.setDelay_v (b : Byte) : (s.setDelay b).v = s.v := rfl
@[simp] theorem State.setDelay_i (b : Byte) : (s.setDelay b).i = s.i := rfl
@[simp] theorem State.setDelay_pc (b : Byte) : (s.setDelay b).pc = s.pc := rfl
@[simp] theorem State.setDelay_stack (b : Byte) : (s.setDelay b).stack = s.stack := rfl
@[simp] theorem State.setDelay_delayTimer (b : Byte) : (s.setDelay b).delayTimer = b := rfl
@[simp] theorem State.setDelay_soundTimer (b : Byte) : (s.setDelay b).soundTimer = s.soundTimer := rfl
@[simp] theorem State.setDelay_fb (b : Byte) : (s.setDelay b).fb = s.fb := rfl
@[simp] theorem State.setDelay_drawFlag (b : Byte) : (s.setDelay b).drawFlag = s.drawFlag := rfl
@[simp] theorem State.setDelay_keys (b : Byte) : (s.setDelay b).keys = s.keys := rfl
@[simp] theorem State.setDelay_wait (b : Byte) : (s.setDelay b).wait = s.wait := rfl
@[simp] theorem State.setDelay_shiftQuirk (b : Byte) : (s.setDelay b).shiftQuirk = s.shiftQuirk := rfl
@[simp] theorem State.setDelay_memQuirk (b : Byte) : (s.setDelay b).memQuirk = s.memQuirk := rfl
@[simp] theorem State.setDelay_rom (b : Byte) : (s.setDelay b).rom = s.rom := rfl
@[simp] theorem State.setDelay_fault (b : Byte) : (s.setDelay b).fault = s.fault := rfl
@[simp] theorem State.setDelay_params (b : Byte) : (s.setDelay b).params = s.params := rfl
@[simp] theorem State.setDelay_draw (b : Byte) : (s.setDelay b).draw = s.draw := rfl
@[simp] theorem State.setDelay_drawCount (b : Byte) : (s.setDelay b).drawCount = s.drawCount := rfl
@[simp] theorem State.setDelay_getV (b : Byte) : (s.setDelay b).getV = s.getV := rfl
@[simp] theorem State.setDelay_key (b : Byte) : (s.setDelay b).key = s.key := rfl
@[simp] theorem State.setDelay_indexAddr (b : Byte) : (s.setDelay b).indexAddr = s.indexAddr := rfl

/-! ### setSound -/

@[simp] theorem State.setSound_mem (b : Byte) : (s.setSound b).mem = s.mem := rfl
@[simp] theorem State.setSound_v (b : Byte) : (s.setSound b).v = s.v := rfl
@[simp] theorem State.setSound_i (b : Byte) : (s.setSound b).i = s.i := rfl
@[simp] theorem State.setSound_pc (b : Byte) : (s.setSound b).pc = s.pc := rfl
@[simp] theorem State.setSound_stack (b : Byte) : (s.setSound b).stack = s.stack := rfl
@[simp] theorem State.setSound_delayTimer (b : Byte) : (s.setSound b).delayTimer = s.delayTimer := rfl
@[simp] theorem State.setSound_soundTimer (b : Byte) : (s.setSound b).soundTimer = b := rfl
@[simp] theorem State.setSound_fb (b : Byte) : (s.setSound b).fb = s.fb := rfl
@[simp] theorem State.setSound_drawFlag (b : Byte) : (s.setSound b).drawFlag = s.drawFlag := rfl
@[simp] theorem State.setSound_keys (b : Byte) : (s.setSound b).keys = s.keys := rfl
@[simp] theorem State.setSound_wait (b : Byte) : (s.setSound b).wait = s.wait := rfl
@[simp] theorem State.setSound_shiftQuirk (b : Byte) : (s.setSound b).shiftQuirk = s.shiftQuirk := rfl
@[simp] theorem State.setSound_memQuirk (b : Byte) : (s.setSound b).memQuirk = s.memQuirk := rfl
@[simp] theorem State.setSound_rom (b : Byte) : (s.setSound b).rom = s.rom := rfl
@[simp] theorem State.setSound_fault (b : Byte) : (s.setSound b).fault = s.fault := rfl
@[simp] theorem State.setSound_params (b : Byte) : (s.setSound b).params = s.params := rfl
@[simp] theorem State.setSound_draw (b : Byte) : (s.setSound b).draw = s.draw := rfl
@[simp] theorem State.setSound_drawCount (b : Byte) : (s.setSound b).drawCount = s.drawCount := rfl
@[simp] theorem State.setSound_getV (b : Byte) : (s.setSound b).getV = s.getV := rfl
@[simp] theorem State.setSound_key (b : Byte) : (s.setSound b).key = s.key := rfl
@[simp] theorem State.setSound_indexAddr (b : Byte) : (s.setSound b).indexAddr = s.indexAddr := rfl

/-! ### setDisplay -/

@[simp] theorem State.setDisplay_mem (f : Framebuffer) : (s.setDisplay f).mem = s.mem := rfl
@[simp] theorem State.setDisplay_v (f : Framebuffer) : (s.setDisplay f).v = s.v := rfl
@[simp] theorem State.setDisplay_i (f : Framebuffer) : (s.setDisplay f).i = s.i := rfl
@[simp] theorem State.setDisplay_pc (f : Framebuffer) : (s.setDisplay f).pc = s.pc := rfl
@[simp] theorem State.setDisplay_stack (f : Framebuffer) : (s.setDisplay f).stack = s.stack := rfl
@[simp] theorem State.setDisplay_delayTimer (f : Framebuffer) : (s.setDisplay f).delayTimer = s.delayTimer := rfl
@[simp] theorem State.setDisplay_soundTimer (f : Framebuffer) : (s.setDisplay f).soundTimer = s.soundTimer := rfl
@[simp] theorem State.setDisplay_fb (f : Framebuffer) : (s.setDisplay f).fb = f := rfl
@[simp] theorem State.setDisplay_drawFlag (f : Framebuffer) : (s.setDisplay f).drawFlag = true := rfl
@[simp] theorem State.setDisplay_keys (f : Framebuffer) : (s.setDisplay f).keys = s.keys := rfl
@[simp] theorem State.setDisplay_wait (f : Framebuffer) : (s.setDisplay f).wait = s.wait := rfl
@[simp] theorem State.setDisplay_shiftQuirk (f : Framebuffer) : (s.setDisplay f).shiftQuirk = s.shiftQuirk := rfl
@[simp] theorem State.setDisplay_memQuirk (f : Framebuffer) : (s.setDisplay f).memQuirk = s.memQuirk := rfl
@[simp] theorem State.setDisplay_rom (f : Framebuffer) : (s.setDisplay f).rom = s.rom := rfl
@[simp] theorem State.setDisplay_fault (f : Framebuffer) : (s.setDisplay f).fault = s.fault := rfl
@[simp] theorem State.setDisplay_params (f : Framebuffer) : (s.setDisplay f).params = s.params := rfl
@[simp] theorem State.setDisplay_draw (f : Framebuffer) : (s.setDisplay f).draw = s.draw := rfl
@[simp] theorem State.setDisplay_drawCount (f : Framebuffer) : (s.setDisplay f).drawCount = s.drawCount := rfl
@[simp] theorem State.setDisplay_getV (f : Framebuffer) : (s.setDisplay f).getV = s.getV := rfl
@[simp] theorem State.setDisplay_key (f : Framebuffer) : (s.setDisplay f).key = s.key := rfl
@[simp] theorem State.setDisplay_indexAddr (f : Framebuffer) : (s.setDisplay f).indexAddr = s.indexAddr := rfl

/-! ### setWait -/

@[simp] theorem State.setWait_mem (w : WaitState) : (s.setWait w).mem = s.mem := rfl
@[simp] theorem State.setWait_v (w : WaitState) : (s.setWait w).v = s.v := rfl
@[simp] theorem State.setWait_i (w : WaitState) : (s.setWait w).i = s.i := rfl
@[simp] theorem State.setWait_pc (w : WaitState) : (s.setWait w).pc = s.pc := rfl
@[simp] theorem State.setWait_stack (w : WaitState) : (s.setWait w).stack = s.stack := rfl
@[simp] theorem State.setWait_delayTimer (w : WaitState) : (s.setWait w).delayTimer = s.delayTimer := rfl
@[simp] theorem State.setWait_soundTimer (w : WaitState) : (s.setWait w).soundTimer = s.soundTimer := rfl
@[simp] theorem State.setWait_fb (w : WaitState) : (s.setWait w).fb = s.fb := rfl
@[simp] theorem State.setWait_drawFlag (w : WaitState) : (s.setWait w).drawFlag = s.drawFlag := rfl
@[simp] theorem State.setWait_keys (w : WaitState) : (s.setWait w).keys = s.keys := rfl
@[simp] theorem State.setWait_wait (w : WaitState) : (s.setWait w).wait = w := rfl
@[simp] theorem State.setWait_shiftQuirk (w : WaitState) : (s.setWait w).shiftQuirk = s.shiftQuirk := rfl
@[simp] theorem State.setWait_memQuirk (w : WaitState) : (s.setWait w).memQuirk = s.memQuirk := rfl
@[simp] theorem State.setWait_rom (w : WaitState) : (s.setWait w).rom = s.rom := rfl
@[simp] theorem State.setWait_fault (w : WaitState) : (s.setWait w).fault = s.fault := rfl
@[simp] theorem State.setWait_params (w : WaitState) : (s.setWait w).params = s.params := rfl
@[simp] theorem State.setWait_draw (w : WaitState) : (s.setWait w).draw = s.draw := rfl
@[simp] theorem State.setWait_drawCount (w : WaitState) : (s.setWait w).drawCount = s.drawCount := rfl
@[simp] theorem State.setWait_getV (w : WaitState) : (s.setWait w).getV = s.getV := rfl
@[simp] theorem State.setWait_key (w : WaitState) : (s.setWait w).key = s.key := rfl
@[simp] theorem State.setWait_indexAddr (w : WaitState) : (s.setWait w).indexAddr = s.indexAddr := rfl

/-! ### raise -/

@[simp] theorem State.raise_mem (f : FaultState) : (s.raise f).mem = s.mem := rfl
@[simp] theorem State.raise_v (f : FaultState) : (s.raise f).v = s.v := rfl
@[simp] theorem State.raise_i (f : FaultState) : (s.raise f).i = s.i := rfl
@[simp] theorem State.raise_pc (f : FaultState) : (s.raise f).pc = s.pc := rfl
@[simp] theorem State.raise_stack (f : FaultState) : (s.raise f).stack = s.stack := rfl
@[simp] theorem State.raise_delayTimer (f : FaultState) : (s.raise f).delayTimer = s.delayTimer := rfl
@[simp] theorem State.raise_soundTimer (f : FaultState) : (s.raise f).soundTimer = s.soundTimer := rfl
@[simp] theorem State.raise_fb (f : FaultState) : (s.raise f).fb = s.fb := rfl
@[simp] theorem State.raise_drawFlag (f : FaultState) : (s.raise f).drawFlag = s.drawFlag := rfl
@[simp] theorem State.raise_keys (f : FaultState) : (s.raise f).keys = s.keys := rfl
@[simp] theorem State.raise_wait (f : FaultState) : (s.raise f).wait = s.wait := rfl
@[simp] theorem State.raise_shiftQuirk (f : FaultState) : (s.raise f).shiftQuirk = s.shiftQuirk := rfl
@[simp] theorem State.raise_memQuirk (f : FaultState) : (s.raise f).memQuirk = s.memQuirk := rfl
@[simp] theorem State.raise_rom (f : FaultState) : (s.raise f).rom = s.rom := rfl
@[simp] theorem State.raise_fault (f : FaultState) : (s.raise f).fault = f := rfl
@[simp] theorem State.raise_params (f : FaultState) : (s.raise f).params = s.params := rfl
@[simp] theorem State.raise_draw (f : FaultState) : (s.raise f).draw = s.draw := rfl
@[simp] theorem State.raise_drawCount (f : FaultState) : (s.raise f).drawCount = s.drawCount := rfl
@[simp] theorem State.raise_getV (f : FaultState) : (s.raise f).getV = s.getV := rfl
@[simp] theorem State.raise_key (f : FaultState) : (s.raise f).key = s.key := rfl
@[simp] theorem State.raise_indexAddr (f : FaultState) : (s.raise f).indexAddr = s.indexAddr := rfl

/-! ### consumeDraw -/

@[simp] theorem State.consumeDraw_mem : (s.consumeDraw).mem = s.mem := rfl
@[simp] theorem State.consumeDraw_v : (s.consumeDraw).v = s.v := rfl
@[simp] theorem State.consumeDraw_i : (s.consumeDraw).i = s.i := rfl
@[simp] theorem State.consumeDraw_pc : (s.consumeDraw).pc = s.pc := rfl
@[simp] theorem State.consumeDraw_stack : (s.consumeDraw).stack = s.stack := rfl
@[simp] theorem State.consumeDraw_delayTimer : (s.consumeDraw).delayTimer = s.delayTimer := rfl
@[simp] theorem State.consumeDraw_soundTimer : (s.consumeDraw).soundTimer = s.soundTimer := rfl
@[simp] theorem State.consumeDraw_fb : (s.consumeDraw).fb = s.fb := rfl
@[simp] theorem State.consumeDraw_drawFlag : (s.consumeDraw).drawFlag = s.drawFlag := rfl
@[simp] theorem State.consumeDraw_keys : (s.consumeDraw).keys = s.keys := rfl
@[simp] theorem State.consumeDraw_wait : (s.consumeDraw).wait = s.wait := rfl
@[simp] theorem State.consumeDraw_shiftQuirk : (s.consumeDraw).shiftQuirk = s.shiftQuirk := rfl
@[simp] theorem State.consumeDraw_memQuirk : (s.consumeDraw).memQuirk = s.memQuirk := rfl
@[simp] theorem State.consumeDraw_rom : (s.consumeDraw).rom = s.rom := rfl
@[simp] theorem State.consumeDraw_fault : (s.consumeDraw).fault = s.fault := rfl
@[simp] theorem State.consumeDraw_params : (s.consumeDraw).params = s.params := rfl
@[simp] theorem State.consumeDraw_draw : (s.consumeDraw).draw = none := rfl
@[simp] theorem State.consumeDraw_drawCount : (s.consumeDraw).drawCount = s.drawCount + 1 := rfl
@[simp] theorem State.consumeDraw_getV : (s.consumeDraw).getV = s.getV := rfl
@[simp] theorem State.consumeDraw_key : (s.consumeDraw).key = s.key := rfl
@[simp] theorem State.consumeDraw_indexAddr : (s.consumeDraw).indexAddr = s.indexAddr := rfl

/-! ### autoIncrement -/

@[simp] theorem State.autoIncrement_mem (x : Reg) : (s.autoIncrement x).mem = s.mem := by unfold State.autoIncrement; split <;> rfl
@[simp] theorem State.autoIncrement_v (x : Reg) : (s.autoIncrement x).v = s.v := by unfold State.autoIncrement; split <;> rfl
@[simp] theorem State.autoIncrement_i (x : Reg) : (s.autoIncrement x).i = if s.memQuirk then s.i + x.setWidth 12 + 1#12 else s.i := by unfold State.autoIncrement; split <;> rfl
@[simp] theorem State.autoIncrement_pc (x : Reg) : (s.autoIncrement x).pc = s.pc := by unfold State.autoIncrement; split <;> rfl
@[simp] theorem State.autoIncrement_stack (x : Reg) : (s.autoIncrement x).stack = s.stack := by unfold State.autoIncrement; split <;> rfl
@[simp] theorem State.autoIncrement_delayTimer (x : Reg) : (s.autoIncrement x).delayTimer = s.delayTimer := by unfold State.autoIncrement; split <;> rfl
@[simp] theorem State.autoIncrement_soundTimer (x : Reg) : (s.autoIncrement x).soundTimer = s.soundTimer := by unfold State.autoIncrement; split <;> rfl
@[simp] theorem State.autoIncrement_fb (x : Reg) : (s.autoIncrement x).fb = s.fb := by unfold State.autoIncrement; split <;> rfl
@[simp] theorem State.autoIncrement_drawFlag (x : Reg) : (s.autoIncrement x).drawFlag = s.drawFlag := by unfold State.autoIncrement; split <;> rfl
@[simp] theorem State.autoIncrement_keys (x : Reg) : (s.autoIncrement x).keys = s.keys := by unfold State.autoIncrement; split <;> rfl
@[simp] theorem State.autoIncrement_wait (x : Reg) : (s.autoIncrement x).wait = s.wait := by unfold State.autoIncrement; split <;> rfl
@[simp] theorem State.autoIncrement_shiftQuirk (x : Reg) : (s.autoIncrement x).shiftQuirk = s.shiftQuirk := by unfold State.autoIncrement; split <;> rfl
@[simp] theorem State.autoIncrement_memQuirk (x : Reg) : (s.autoIncrement x).memQuirk = s.memQuirk := by unfold State.autoIncrement; split <;> rfl
@[simp] theorem State.autoIncrement_rom (x : Reg) : (s.autoIncrement x).rom = s.rom := by unfold State.autoIncrement; split <;> rfl
@[simp] theorem State.autoIncrement_fault (x : Reg) : (s.autoIncrement x).fault = s.fault := by unfold State.autoIncrement; split <;> rfl
@[simp] theorem State.autoIncrement_params (x : Reg) : (s.autoIncrement x).params = s.params := by unfold State.autoIncrement; split <;> rfl
@[simp] theorem State.autoIncrement_draw (x : Reg) : (s.autoIncrement x).draw = s.draw := by unfold State.autoIncrement; split <;> rfl
@[simp] theorem State.autoIncrement_drawCount (x : Reg) : (s.autoIncrement x).drawCount = s.drawCount := by unfold State.autoIncrement; split <;> rfl
@[simp] theorem State.autoIncrement_getV (x : Reg) : (s.autoIncrement x).getV = s.getV := by unfold State.autoIncrement; split <;> rfl
@[simp] theorem State.autoIncrement_key (x : Reg) : (s.autoIncrement x).key = s.key := by unfold State.autoIncrement; split <;> rfl

/-! ### setDraw -/

@[simp] theorem State.setDraw_mem (d : Option Byte) : (s.setDraw d).mem = s.mem := rfl
@[simp] theorem State.setDraw_v (d : Option Byte) : (s.setDraw d).v = s.v := rfl
@[simp] theorem State.setDraw_i (d : Option Byte) : (s.setDraw d).i = s.i := rfl
@[simp] theorem State.setDraw_pc (d : Option Byte) : (s.setDraw d).pc = s.pc := rfl
@[simp] theorem State.setDraw_stack (d : Option Byte) : (s.setDraw d).stack = s.stack := rfl
@[simp] theorem State.setDraw_delayTimer (d : Option Byte) : (s.setDraw d).delayTimer = s.delayTimer := rfl
@[simp] theorem State.setDraw_soundTimer (d : Option Byte) : (s.setDraw d).soundTimer = s.soundTimer := rfl
@[simp] theorem State.setDraw_fb (d : Option Byte) : (s.setDraw d).fb = s.fb := rfl
@[simp] theorem State.setDraw_drawFlag (d : Option Byte) : (s.setDraw d).drawFlag = s.drawFlag := rfl
@[simp] theorem State.setDraw_keys (d : Option Byte) : (s.setDraw d).keys = s.keys := rfl
@[simp] theorem State.setDraw_wait (d : Option Byte) : (s.setDraw d).wait = s.wait := rfl
@[simp] theorem State.setDraw_shiftQuirk (d : Option Byte) : (s.setDraw d).shiftQuirk = s.shiftQuirk := rfl
@[simp] theorem State.setDraw_memQuirk (d : Option Byte) : (s.setDraw d).memQuirk = s.memQuirk := rfl
@[simp] theorem State.setDraw_rom (d : Option Byte) : (s.setDraw d).rom = s.rom := rfl
@[simp] theorem State.setDraw_fault (d : Option Byte) : (s.setDraw d).fault = s.fault := rfl
@[simp] theorem State.setDraw_params (d : Option Byte) : (s.setDraw d).params = s.params := rfl
@[simp] theorem State.setDraw_draw (d : Option Byte) : (s.setDraw d).draw = d := rfl
@[simp] theorem State.setDraw_drawCount (d : Option Byte) : (s.setDraw d).drawCount = s.drawCount := rfl
@[simp] theorem State.setDraw_getV (d : Option Byte) : (s.setDraw d).getV = s.getV := rfl
@[simp] theorem State.setDraw_key (d : Option Byte) : (s.setDraw d).key = s.key := rfl
@[simp] theorem State.setDraw_indexAddr (d : Option Byte) : (s.setDraw d).indexAddr = s.indexAddr := rfl
@[simp] theorem State.setDraw_fetchWord (d : Option Byte) : (s.setDraw d).fetchWord = s.fetchWord := rfl
@[simp] theorem State.setDraw_setDraw (d e : Option Byte) : (s.setDraw d).setDraw e = s.setDraw e := rfl

end Sys2Proof.Machine
end

