-- ==== Sys2Proof/Laws/Operands.lean ====
section
/-! SUPPORT. What each shared operation over registers, operands and register sequences does, said once. -/

namespace Sys2Proof.Machine

variable (s : State)

/-! ### Registers -/

/-- All a register write does, seen through the read of one register. -/
@[simp] theorem State.getV_setV (x r : Reg) (b : Byte) : (s.setV x b).getV r = if r = x then b else s.getV r := by
  simp only [State.getV, State.setV, Vector.getElem_set, BitVec.toNat_inj]
  by_cases h : x = r <;> simp [h, eq_comm]

theorem regOf_toNat (x : Reg) : regOf x.toNat = x := by simp [regOf]

theorem regOf_eq_iff {k : Nat} (hk : k < 16) (x : Reg) : x = regOf k ↔ x.toNat = k := by
  constructor
  · rintro rfl; simp [regOf, Nat.mod_eq_of_lt hk]
  · rintro rfl; rw [regOf_toNat]

/-! ### The stores of Fx55 -/

/-- Below the wrap of 4096, two of at most 16 consecutive addresses are never the same. -/
theorem State.indexAddr_mod_inj {j k : Nat} (hj : j < 16) (hk : k < 16)
    (h : s.indexAddr j % 4096 = s.indexAddr k % 4096) : j = k := by
  simp only [State.indexAddr] at h; omega

/-- The stores reach only the addresses I..I+n-1. -/
theorem State.read_memAfterStores_other (n c : Nat) (h : ∀ k, k < n → c % 4096 ≠ s.indexAddr k % 4096) :
    (s.memAfterStores n).read c = s.mem.read c := by
  induction n with
  | zero => rfl
  | succ n ih =>
    rw [State.memAfterStores, Memory.read_write, if_neg (h n (by omega)), ih fun k hk => h k (by omega)]

/-- Each of the addresses I..I+n-1 then holds its register. -/
theorem State.read_memAfterStores (n k : Nat) (hn : n ≤ 16) (hk : k < n) :
    (s.memAfterStores n).read (s.indexAddr k) = s.getV (regOf k) := by
  induction n with
  | zero => omega
  | succ n ih =>
    rw [State.memAfterStores, Memory.read_write]
    by_cases h : k = n
    · subst h; rw [if_pos rfl]
    · rw [if_neg fun e => h (s.indexAddr_mod_inj (by omega) (by omega) e), ih (by omega) (by omega)]

theorem State.wf_memAfterStores (n : Nat) (h : s.mem.wf = true) : (s.memAfterStores n).wf = true := by
  induction n with
  | zero => exact h
  | succ n ih => exact Memory.wf_write ih _ _

/-! ### The loads of Fx65 -/

/-- The loads change registers only. -/
theorem State.afterLoads_eq (n : Nat) : ∃ w, s.afterLoads n = { s with v := w } := by
  induction n with
  | zero => exact ⟨s.v, rfl⟩
  | succ n ih => obtain ⟨w, hw⟩ := ih; exact ⟨_, by rw [State.afterLoads, hw]; rfl⟩

/-- Registers V0..V(n-1) hold the bytes at I..I+n-1, and the others are as before. -/
theorem State.getV_afterLoads (n : Nat) (hn : n ≤ 16) (r : Reg) :
    (s.afterLoads n).getV r = if r.toNat < n then s.mem.read (s.indexAddr r.toNat) else s.getV r := by
  induction n with
  | zero => rw [if_neg (Nat.not_lt_zero _)]; rfl
  | succ n ih =>
    rw [State.afterLoads, State.getV_setV, ih (by omega)]
    by_cases h : r.toNat = n
    · rw [if_pos ((regOf_eq_iff (by omega) r).2 h), if_pos (by omega), h]
    · rw [if_neg fun e => h ((regOf_eq_iff (by omega) r).1 e)]
      split_ifs <;> first | rfl | omega

/-! ### Digits and sprite rows -/

theorem hundreds_toNat (b : Byte) : (hundreds b).toNat = b.toNat / 100 := by
  simp only [hundreds, BitVec.toNat_ofNat]; have := b.isLt; omega

theorem tens_toNat (b : Byte) : (tens b).toNat = b.toNat / 10 % 10 := by
  simp only [tens, BitVec.toNat_ofNat]; omega

theorem ones_toNat (b : Byte) : (ones b).toNat = b.toNat % 10 := by
  simp only [ones, BitVec.toNat_ofNat]; omega

theorem State.length_spriteRows (n : Nibble) : (s.spriteRows n).length = n.toNat := by simp [State.spriteRows]

theorem State.getD_spriteRows (n : Nibble) (r : Nat) :
    (s.spriteRows n).getD r 0#8 = if r < n.toNat then s.mem.read (s.indexAddr r) else 0#8 := by
  simp only [State.spriteRows, List.getD_eq_getElem?_getD, List.getElem?_map]
  split <;> simp_all

/-! ### Key skips -/

/-- Under `mask` a key skip looks at the key of Vx's low nibble and never faults. -/
theorem State.skipOnKey_of_mask (x : Reg) (pressed : Bool) (h : s.params.keyIndexPolicy = .mask) :
    s.skipOnKey x pressed = s.skipIf (s.key ((s.getV x).extractLsb' 0 4) == pressed) := by
  simp [State.skipOnKey, h, keyIndex]

/-- With Vx at most 0xF the policies agree. -/
theorem State.skipOnKey_of_le (x : Reg) (pressed : Bool) (h : (s.getV x).toNat ≤ 0xF) :
    s.skipOnKey x pressed = s.skipIf (s.key ((s.getV x).extractLsb' 0 4) == pressed) := by
  cases hp : s.params.keyIndexPolicy <;> simp [State.skipOnKey, hp, keyIndex, h]

/-- Under `fault` with Vx above 0xF a key skip raises the fault and does not skip. -/
theorem State.skipOnKey_of_fault (x : Reg) (pressed : Bool) (hp : s.params.keyIndexPolicy = .fault)
    (h : 0xF < (s.getV x).toNat) : s.skipOnKey x pressed = s.raise .keyIndexOutOfRange := by
  simp [State.skipOnKey, hp, keyIndex, Nat.not_le.2 h]

/-- A key skip skips or not, or raises the fault that only the `fault` policy has. -/
theorem State.skipOnKey_cases (x : Reg) (pressed : Bool) : (∃ c, s.skipOnKey x pressed = s.skipIf c) ∨
    (s.skipOnKey x pressed = s.raise .keyIndexOutOfRange ∧ s.params.keyIndexPolicy = .fault ∧ 0xF < (s.getV x).toNat) := by
  cases hp : s.params.keyIndexPolicy with
  | mask => exact .inl ⟨_, s.skipOnKey_of_mask x pressed hp⟩
  | fault =>
    by_cases h : (s.getV x).toNat ≤ 0xF
    · exact .inl ⟨_, s.skipOnKey_of_le x pressed h⟩
    · exact .inr ⟨s.skipOnKey_of_fault x pressed hp (by omega), rfl, by omega⟩

/-! ### The draw slot goes through the operations -/

theorem State.skipIf_setDraw (d : Option Byte) (c : Bool) : (s.setDraw d).skipIf c = (s.skipIf c).setDraw d := by
  cases c <;> rfl

theorem State.autoIncrement_setDraw (d : Option Byte) (x : Reg) :
    (s.setDraw d).autoIncrement x = (s.autoIncrement x).setDraw d := by
  cases h : s.memQuirk <;> simp [State.autoIncrement, h, State.setDraw, State.setI]

theorem State.afterLoads_setDraw (d : Option Byte) (n : Nat) : (s.setDraw d).afterLoads n = (s.afterLoads n).setDraw d := by
  induction n with
  | zero => rfl
  | succ n ih => rw [State.afterLoads, ih]; rfl

theorem State.memAfterStores_setDraw (d : Option Byte) (n : Nat) : (s.setDraw d).memAfterStores n = s.memAfterStores n := by
  induction n with
  | zero => rfl
  | succ n ih => rw [State.memAfterStores, ih]; rfl

end Sys2Proof.Machine
end

