-- ==== Sys2Proof/Laws/Cycle.lean ====
section
/-! SUPPORT. What one cycle can do, said once; and the wait poll. -/

namespace Sys2Proof.Machine

/-! ### The wait poll -/

theorem regOf_pairwise : ((List.range 16).map regOf).Pairwise (fun a b => a.toNat < b.toNat) := by decide

theorem mem_regs (k : Reg) : k ∈ (List.range 16).map regOf :=
  List.mem_map.2 ⟨k.toNat, List.mem_range.2 k.isLt, regOf_toNat k⟩

/-- A poll finds no key exactly when no key is pressed. -/
theorem State.firstPressed_eq_none (s : State) : s.firstPressed = none ↔ ∀ k, s.key k = false := by
  simp only [State.firstPressed, List.find?_eq_none, Bool.not_eq_true]
  exact ⟨fun h k => h k (mem_regs k), fun h k _ => h k⟩

/-- A poll finds the lowest pressed key. -/
theorem State.firstPressed_eq_some (s : State) (k : Reg) :
    s.firstPressed = some k ↔ s.key k = true ∧ ∀ j : Reg, j.toNat < k.toNat → s.key j = false := by
  constructor
  · intro h
    obtain ⟨hk, as, bs, hab, hall⟩ := List.find?_eq_some_iff_append.1 h
    refine ⟨hk, fun j hj => ?_⟩
    have hp := regOf_pairwise
    rw [hab] at hp
    have hmem : j ∈ as ++ k :: bs := hab ▸ mem_regs j
    rcases List.mem_append.1 hmem with ha | hb
    · simpa using hall j ha
    · have hkb := (List.pairwise_cons.1 (List.pairwise_append.1 hp).2.1).1
      rcases List.mem_cons.1 hb with rfl | hb
      · omega
      · have := hkb j hb; omega
  · rintro ⟨hk, hlow⟩
    cases h : s.firstPressed with
    | none => rw [(s.firstPressed_eq_none).1 h k] at hk; cases hk
    | some j =>
      obtain ⟨hj, as, bs, hab, hall⟩ := List.find?_eq_some_iff_append.1 h
      have hp := regOf_pairwise
      rw [hab] at hp
      have hmem : k ∈ as ++ j :: bs := hab ▸ mem_regs k
      rcases List.mem_append.1 hmem with ha | hb
      · rw [show s.key k = false by simpa using hall k ha] at hk; cases hk
      · rcases List.mem_cons.1 hb with rfl | hb
        · rfl
        · have hjk := (List.pairwise_cons.1 (List.pairwise_append.1 hp).2.1).1 k hb
          rw [hlow j hjk] at hj; cases hj

theorem State.poll_of_none (s : State) (r : Reg) (h : ∀ k, s.key k = false) : s.poll r = s := by
  rw [State.poll, (s.firstPressed_eq_none).2 h]

theorem State.poll_of_some (s : State) (r k : Reg) (hk : s.key k = true)
    (hlow : ∀ j : Reg, j.toNat < k.toNat → s.key j = false) :
    s.poll r = (s.setV r (k.setWidth 8)).setWait .idle := by
  rw [State.poll, (s.firstPressed_eq_some k).2 ⟨hk, hlow⟩]

/-- A poll latches one key and ends the wait, or does nothing. -/
theorem State.poll_cases (s : State) (r : Reg) :
    s.poll r = s ∨ ∃ k : Reg, s.poll r = (s.setV r (k.setWidth 8)).setWait .idle := by
  unfold State.poll
  split
  · exact .inr ⟨_, rfl⟩
  · exact .inl rfl

/-! ### The cycle -/

/-- The fetch guard holds exactly at PC = 0xFFF. -/
theorem State.fetchBlocked_iff (s : State) : s.fetchBlocked = true ↔ s.pc = 0xFFF#12 := by
  simp only [State.fetchBlocked, Config.memSize, decide_eq_true_eq]
  have := s.pc.isLt
  constructor
  · intro h; apply BitVec.eq_of_toNat_eq; simp; omega
  · intro h; rw [h]; decide

theorem step_halted {s : State} (h : s.fault ≠ .none) : step s = .next s := by
  simp [step, State.cycleStep, h]

theorem step_waiting {s : State} {r : Reg} (hf : s.fault = .none) (hw : s.wait = .waiting r) :
    step s = .next (s.poll r) := by
  simp [step, State.cycleStep, hf, hw]

theorem step_blocked {s : State} (hf : s.fault = .none) (hw : s.wait = .idle) (hp : s.pc = 0xFFF#12) :
    step s = .next s := by
  simp [step, State.cycleStep, hf, hw, (s.fetchBlocked_iff).2 hp]

/-- A running core dispatches the fetched word on the state whose PC has advanced. -/
theorem step_running {s : State} (h : s.Running) : step s = s.skip.dispatch s.fetchWord := by
  have hb : s.fetchBlocked = false := by
    rw [← Bool.not_eq_true, s.fetchBlocked_iff]; exact h.2.2
  simp [step, State.cycleStep, h.1, h.2.1, hb]

theorem State.dispatch_ok {s : State} {op : Word} {i : Instr} (h : decodeWord op = .ok i) : s.dispatch op = exec i s := by
  simp [State.dispatch, h]

theorem State.dispatch_error {s : State} {op : Word} {e : DecodeError} (h : decodeWord op = .error e) :
    s.dispatch op = .next s := by
  simp [State.dispatch, h]

/-- Everything a step can do: stay (halted or blocked), poll, pass over an unknown opcode, or run one instruction. -/
theorem step_cases {s t : State} (h : step s = .next t) :
    ((s.fault ≠ .none ∨ (s.fault = .none ∧ s.wait = .idle ∧ s.pc = 0xFFF#12)) ∧ t = s) ∨
    (∃ r, s.fault = .none ∧ s.wait = .waiting r ∧ t = s.poll r) ∨
    (s.Running ∧ (∃ e, decodeWord s.fetchWord = .error e) ∧ t = s.skip) ∨
    (s.Running ∧ ∃ i, decodeWord s.fetchWord = .ok i ∧ exec i s.skip = .next t) := by
  by_cases hf : s.fault = .none
  · by_cases hw : s.wait = .idle
    · by_cases hp : s.pc = 0xFFF#12
      · rw [step_blocked hf hw hp] at h
        exact .inl ⟨.inr ⟨hf, hw, hp⟩, (Host.Outcome.next.inj h).symm⟩
      · have hr : s.Running := ⟨hf, hw, hp⟩
        rw [step_running hr] at h
        cases hd : decodeWord s.fetchWord with
        | ok i =>
          rw [State.dispatch_ok hd] at h
          exact .inr (.inr (.inr ⟨hr, i, rfl, h⟩))
        | error e =>
          rw [State.dispatch_error hd] at h
          exact .inr (.inr (.inl ⟨hr, ⟨e, rfl⟩, (Host.Outcome.next.inj h).symm⟩))
    · obtain ⟨r, hr⟩ : ∃ r, s.wait = .waiting r := by
        cases h : s.wait with
        | idle => exact absurd h hw
        | waiting r => exact ⟨r, rfl⟩
      rw [step_waiting hf hr] at h
      exact .inr (.inl ⟨r, hf, hr, (Host.Outcome.next.inj h).symm⟩)
  · rw [step_halted hf] at h
    exact .inl ⟨.inl hf, (Host.Outcome.next.inj h).symm⟩

/-- What `cycle(d)` answers, from the step of the state whose draw slot holds `d`. -/
theorem cycle_eq {s t : State} {d : Byte} (h : step (s.setDraw (some d)) = .next t) :
    cycle d s = .next (s.cycleReport t, t.setDraw none) := by
  rw [cycle, show (s.setDraw (some d)).cycleStep = .next t from h]

/-- What `cycle(d)` answers when it executes instruction `i`. -/
theorem cycle_of_executes {s t : State} {i : Instr} (d : Byte) (h : s.Executes i)
    (ht : exec i (s.skip.setDraw (some d)) = .next t) :
    cycle d s = .next (reportOf s.fetchWord t.fault, t.setDraw none) := by
  have hb : s.fetchBlocked = false := by
    rw [← Bool.not_eq_true, s.fetchBlocked_iff]; exact h.1.2.2
  have hs : step (s.setDraw (some d)) = .next t :=
    (step_running (s := s.setDraw (some d)) h.1).trans ((State.dispatch_ok h.2).trans ht)
  rw [cycle_eq hs]
  simp [State.cycleReport, h.1.1, h.1.2.1, hb, h.2]

/-- Every instruction completes: `exec` answers a next state for every instruction and state. -/
theorem exec_next (i : Instr) (s : State) : ∃ t, exec i s = .next t := by
  cases i <;> simp only [exec]
  case ret => rw [execRet]; split <;> exact ⟨_, rfl⟩
  case call => rw [execCall]; split <;> exact ⟨_, rfl⟩
  all_goals exact ⟨_, rfl⟩

end Sys2Proof.Machine
end

