-- ==== Sys2Proof/Laws/Decode.lean ====
section
/-! SUPPORT. The fields of an opcode word: a word is its pieces, each field reads the piece the encoder wrote, and a mask of
R85 tests exactly the fixed digits. -/

namespace Sys2Proof

/-! ### Words and fields as numbers -/

theorem toNat_append_add {n m : Nat} (a : BitVec n) (b : BitVec m) : (a ++ b).toNat = a.toNat * 2 ^ m + b.toNat := by
  rw [BitVec.toNat_append, Nat.shiftLeft_eq, Nat.mul_comm, Nat.two_pow_add_eq_or_of_lt b.isLt]

theorem toNat_opFamily (op : Word) : (opFamily op).toNat = op.toNat / 4096 := by
  have := op.isLt; simp [opFamily, Nat.shiftRight_eq_div_pow]; omega

theorem toNat_opX (op : Word) : (opX op).toNat = op.toNat / 256 % 16 := by simp [opX, Nat.shiftRight_eq_div_pow]

theorem toNat_opY (op : Word) : (opY op).toNat = op.toNat / 16 % 16 := by simp [opY, Nat.shiftRight_eq_div_pow]

theorem toNat_opN (op : Word) : (opN op).toNat = op.toNat % 16 := by simp [opN, Nat.shiftRight_eq_div_pow]

theorem toNat_opKK (op : Word) : (opKK op).toNat = op.toNat % 256 := by simp [opKK, Nat.shiftRight_eq_div_pow]

theorem toNat_opNNN (op : Word) : (opNNN op).toNat = op.toNat % 4096 := by simp [opNNN, Nat.shiftRight_eq_div_pow]

section
variable (f x y n : BitVec 4) (kk : Byte) (nnn : Addr) (op : Word)

theorem toNat_word_nnn : (f ++ nnn : Word).toNat = f.toNat * 4096 + nnn.toNat := toNat_append_add f nnn

theorem toNat_word_kk : (f ++ x ++ kk : Word).toNat = f.toNat * 4096 + x.toNat * 256 + kk.toNat := by
  have h := toNat_append_add (f ++ x) kk
  rw [toNat_append_add f x] at h; exact h.trans (by omega)

theorem toNat_word_n :
    (f ++ x ++ y ++ n : Word).toNat = f.toNat * 4096 + x.toNat * 256 + y.toNat * 16 + n.toNat := by
  have h := toNat_append_add (f ++ x ++ y) n
  rw [toNat_append_add (f ++ x) y, toNat_append_add f x] at h; exact h.trans (by omega)

/-! ### A field reads the piece that was written -/

@[simp] theorem opFamily_word_nnn : opFamily (f ++ nnn : Word) = f := by
  apply BitVec.eq_of_toNat_eq; rw [toNat_opFamily, toNat_word_nnn]; omega

@[simp] theorem opNNN_word_nnn : opNNN (f ++ nnn : Word) = nnn := by
  apply BitVec.eq_of_toNat_eq; rw [toNat_opNNN, toNat_word_nnn]; omega

@[simp] theorem opFamily_word_kk : opFamily (f ++ x ++ kk : Word) = f := by
  apply BitVec.eq_of_toNat_eq; rw [toNat_opFamily, toNat_word_kk]; omega

@[simp] theorem opX_word_kk : opX (f ++ x ++ kk : Word) = x := by
  apply BitVec.eq_of_toNat_eq; rw [toNat_opX, toNat_word_kk]; omega

@[simp] theorem opKK_word_kk : opKK (f ++ x ++ kk : Word) = kk := by
  apply BitVec.eq_of_toNat_eq; rw [toNat_opKK, toNat_word_kk]; omega

@[simp] theorem opFamily_word_n : opFamily (f ++ x ++ y ++ n : Word) = f := by
  apply BitVec.eq_of_toNat_eq; rw [toNat_opFamily, toNat_word_n]; omega

@[simp] theorem opX_word_n : opX (f ++ x ++ y ++ n : Word) = x := by
  apply BitVec.eq_of_toNat_eq; rw [toNat_opX, toNat_word_n]; omega

@[simp] theorem opY_word_n : opY (f ++ x ++ y ++ n : Word) = y := by
  apply BitVec.eq_of_toNat_eq; rw [toNat_opY, toNat_word_n]; omega

@[simp] theorem opN_word_n : opN (f ++ x ++ y ++ n : Word) = n := by
  apply BitVec.eq_of_toNat_eq; rw [toNat_opN, toNat_word_n]; omega

/-! ### A word is its pieces -/

theorem word_eq_nnn : op = (opFamily op ++ opNNN op : Word) := by
  apply BitVec.eq_of_toNat_eq; rw [toNat_word_nnn, toNat_opFamily, toNat_opNNN]; omega

theorem word_eq_kk : op = (opFamily op ++ opX op ++ opKK op : Word) := by
  apply BitVec.eq_of_toNat_eq; rw [toNat_word_kk, toNat_opFamily, toNat_opX, toNat_opKK]; omega

theorem word_eq_n : op = (opFamily op ++ opX op ++ opY op ++ opN op : Word) := by
  apply BitVec.eq_of_toNat_eq; rw [toNat_word_n, toNat_opFamily, toNat_opX, toNat_opY, toNat_opN]; omega

/-! ### The masks of R85 -/

theorem word_nnn_and : (f ++ nnn : Word) &&& 0xF000#16 = (f ++ 0#12 : Word) := by
  rw [show (0xF000#16 : Word) = (0xF#4 ++ 0#12 : Word) by decide]
  exact BitVec.and_append.trans (by rw [BitVec.and_zero, show ∀ a : BitVec 4, a &&& 0xF#4 = a by decide])

theorem word_kk_and : (f ++ x ++ kk : Word) &&& 0xF0FF#16 = (f ++ 0#4 ++ kk : Word) := by
  rw [show (0xF0FF#16 : Word) = (0xF#4 ++ 0#4 ++ 0xFF#8 : Word) by decide]
  exact BitVec.and_append.trans (by
    rw [BitVec.and_append, BitVec.and_zero, show ∀ a : BitVec 4, a &&& 0xF#4 = a by decide,
      show ∀ a : BitVec 8, a &&& 0xFF#8 = a by decide])

theorem word_n_and : (f ++ x ++ y ++ n : Word) &&& 0xF00F#16 = (f ++ 0#4 ++ 0#4 ++ n : Word) := by
  rw [show (0xF00F#16 : Word) = (0xF#4 ++ 0#4 ++ 0#4 ++ 0xF#4 : Word) by decide]
  exact BitVec.and_append.trans (by
    rw [BitVec.and_append, BitVec.and_append, BitVec.and_zero, BitVec.and_zero,
      show ∀ a : BitVec 4, a &&& 0xF#4 = a by decide, show ∀ a : BitVec 4, a &&& 0xF#4 = a by decide])

/-- The mask 0xF000 tests the family. -/
theorem and_F000_iff : op &&& 0xF000#16 = (f ++ 0#12 : Word) ↔ opFamily op = f := by
  rw [word_eq_nnn op, word_nnn_and]
  constructor
  · intro h; have := congrArg opFamily h; simpa using this
  · intro h; simp only [opFamily_word_nnn] at h; rw [h]

/-- The mask 0xF0FF tests the family and the low byte. -/
theorem and_F0FF_iff : op &&& 0xF0FF#16 = (f ++ 0#4 ++ kk : Word) ↔ opFamily op = f ∧ opKK op = kk := by
  rw [word_eq_kk op, word_kk_and]
  constructor
  · intro h
    have h1 := congrArg opFamily h
    have h2 := congrArg opKK h
    simp only [opFamily_word_kk, opKK_word_kk] at h1 h2 ⊢
    exact ⟨h1, h2⟩
  · rintro ⟨h1, h2⟩; simp only [opFamily_word_kk, opKK_word_kk] at h1 h2; rw [h1, h2]

/-- The mask 0xF00F tests the family and the low nibble. -/
theorem and_F00F_iff : op &&& 0xF00F#16 = (f ++ 0#4 ++ 0#4 ++ n : Word) ↔ opFamily op = f ∧ opN op = n := by
  rw [word_eq_n op, word_n_and]
  constructor
  · intro h
    have h1 := congrArg opFamily h
    have h2 := congrArg opN h
    simp only [opFamily_word_n, opN_word_n] at h1 h2 ⊢
    exact ⟨h1, h2⟩
  · rintro ⟨h1, h2⟩; simp only [opFamily_word_n, opN_word_n] at h1 h2; rw [h1, h2]

end

/-! ### Bytes -/

theorem wordOfBytes_bytesOfWord (op : Word) : wordOfBytes (op.extractLsb' 8 8) (op.extractLsb' 0 8) = op := by
  apply BitVec.eq_of_toNat_eq
  rw [wordOfBytes]
  refine (toNat_append_add (op.extractLsb' 8 8) (op.extractLsb' 0 8)).trans ?_
  simp only [BitVec.extractLsb'_toNat, Nat.shiftRight_eq_div_pow]
  have := op.isLt; omega

end Sys2Proof
end

