-- ==== Sys2Proof/Laws/Display.lean ====
section
/-! SUPPORT. The blit, pixel by pixel: what `drawSprite` leaves in each pixel, and when it collides. -/

namespace Sys2Proof.Machine

/-! ### Pixels -/

/-- All a pixel write does, seen through the read of one pixel. -/
@[simp] theorem Framebuffer.pixel_setPixel (fb : Framebuffer) (px qx : Fin 64) (py qy : Fin 32) (b : Bool) :
    (fb.setPixel px py b).pixel qx qy = if qx = px ∧ qy = py then b else fb.pixel qx qy := by
  simp only [Framebuffer.pixel, Framebuffer.setPixel, Vector.getElem_set, Fin.ext_iff]
  by_cases hy : py.1 = qy.1
  · by_cases hx : px.1 = qx.1 <;> simp [hy, hx, eq_comm]
  · simp [hy]; intro _ h; exact absurd h.symm hy

@[simp] theorem Framebuffer.pixel_clear (px : Fin 64) (py : Fin 32) : Framebuffer.clear.pixel px py = false := by
  simp [Framebuffer.pixel, Framebuffer.clear]

/-- Two framebuffers with equal pixels are equal. -/
theorem Framebuffer.eq_of_pixel {f g : Framebuffer} (h : ∀ px py, f.pixel px py = g.pixel px py) : f = g := by
  apply Vector.ext; intro j hj
  apply Vector.ext; intro k hk
  exact h ⟨k, hk⟩ ⟨j, hj⟩

/-! ### Coordinates -/

theorem eq_spriteCol_iff (xc : Byte) (px : Fin 64) {c : Nat} (hc : c < 64) : px = spriteCol xc c ↔ colOffset xc px = c := by
  simp only [spriteCol, colOffset, Fin.ext_iff, Fin.ofNat]
  have := px.isLt; omega

theorem eq_spriteRow_iff (yc : Byte) (py : Fin 32) {r : Nat} (hr : r < 32) : py = spriteRow yc r ↔ rowOffset yc py = r := by
  simp only [spriteRow, rowOffset, Fin.ext_iff, Fin.ofNat]
  have := py.isLt; omega

/-! ### One row -/

/-- The pixels after the first `n` columns of a row. -/
theorem pixel_blitCols (xc yc : Byte) (r : Nat) (hr : r < 32) (row : Byte) (n : Nat) (hn : n ≤ 8) (b : Blit)
    (px : Fin 64) (py : Fin 32) :
    (blitCols xc yc r row n b).1.pixel px py =
      (b.1.pixel px py ^^
        (decide (rowOffset yc py = r) && decide (colOffset xc px < n) && spriteBit row (colOffset xc px))) := by
  induction n with
  | zero => simp [blitCols]
  | succ n ih =>
    rw [blitCols, blitPixel]
    simp only [Framebuffer.pixel_setPixel, eq_spriteCol_iff xc px (show n < 64 by omega), eq_spriteRow_iff yc py hr]
    by_cases h : colOffset xc px = n ∧ rowOffset yc py = r
    · obtain ⟨h1, h2⟩ := h
      have e1 : spriteCol xc n = px := ((eq_spriteCol_iff xc px (by omega)).2 h1).symm
      have e2 : spriteRow yc r = py := ((eq_spriteRow_iff yc py hr).2 h2).symm
      rw [if_pos ⟨h1, h2⟩, e1, e2, ih (by omega)]
      simp [h1, h2]
    · rw [if_neg h, ih (by omega)]
      by_cases h2 : rowOffset yc py = r
      · have h1 : colOffset xc px ≠ n := fun e => h ⟨e, h2⟩
        have : (colOffset xc px < n + 1) = (colOffset xc px < n) := propext ⟨fun _ => by omega, fun _ => by omega⟩
        simp [h2, this]
      · simp [h2]

/-- The collision output after the first `n` columns of a row. -/
theorem collided_blitCols (xc yc : Byte) (r : Nat) (hr : r < 32) (row : Byte) (n : Nat) (hn : n ≤ 8) (b : Blit) :
    (blitCols xc yc r row n b).2 = true ↔ b.2 = true ∨ ∃ c, c < n ∧ spriteBit row c = true ∧
      b.1.pixel (spriteCol xc c) (spriteRow yc r) = true := by
  induction n with
  | zero => simp [blitCols]
  | succ n ih =>
    have hpix : (blitCols xc yc r row n b).1.pixel (spriteCol xc n) (spriteRow yc r) =
        b.1.pixel (spriteCol xc n) (spriteRow yc r) := by
      rw [pixel_blitCols xc yc r hr row n (by omega)]
      have : colOffset xc (spriteCol xc n) = n := (eq_spriteCol_iff xc _ (by omega)).1 rfl
      simp [this]
    rw [blitCols, blitPixel]
    simp only [Bool.or_eq_true, Bool.and_eq_true, hpix, ih (by omega)]
    constructor
    · rintro ((h | ⟨c, hc, h⟩) | h)
      · exact .inl h
      · exact .inr ⟨c, by omega, h⟩
      · exact .inr ⟨n, by omega, h⟩
    · rintro (h | ⟨c, hc, h⟩)
      · exact .inl (.inl h)
      · rcases Nat.lt_succ_iff_lt_or_eq.1 hc with hc | rfl
        · exact .inl (.inr ⟨c, hc, h⟩)
        · exact .inr h

/-! ### All rows -/

/-- The sprite bit on a pixel when the sprite's row 0 is counted as row `r`. -/
def coverFrom (xc yc : Byte) (r : Nat) (rows : List Byte) (px : Fin 64) (py : Fin 32) : Bool :=
  decide (r ≤ rowOffset yc py) && decide (colOffset xc px < 8) &&
    spriteBit (rows.getD (rowOffset yc py - r) 0#8) (colOffset xc px)

theorem coverFrom_cons (xc yc : Byte) (r : Nat) (row : Byte) (rows : List Byte) (px : Fin 64) (py : Fin 32) :
    coverFrom xc yc r (row :: rows) px py =
      ((decide (rowOffset yc py = r) && decide (colOffset xc px < 8) && spriteBit row (colOffset xc px))
        || coverFrom xc yc (r + 1) rows px py) := by
  unfold coverFrom
  rcases Nat.lt_trichotomy (rowOffset yc py) r with h | h | h
  · have a : ¬ r ≤ rowOffset yc py := by omega
    have b : ¬ r + 1 ≤ rowOffset yc py := by omega
    have c : rowOffset yc py ≠ r := by omega
    simp [a, b, c]
  · subst h; simp
  · obtain ⟨d, hd⟩ := Nat.exists_eq_add_of_lt h
    have a : r ≤ rowOffset yc py := by omega
    have b : r + 1 ≤ rowOffset yc py := by omega
    have c : rowOffset yc py ≠ r := by omega
    have e : rowOffset yc py - r = (rowOffset yc py - (r + 1)) + 1 := by omega
    simp [a, b, c, e]

theorem coverFrom_succ_of_row (xc yc : Byte) (r : Nat) (rows : List Byte) (px : Fin 64) (py : Fin 32)
    (h : rowOffset yc py = r) : coverFrom xc yc (r + 1) rows px py = false := by
  simp [coverFrom, h]

/-- The pixels after the rows of a sprite from row `r` on. -/
theorem pixel_blitRows (xc yc : Byte) (rows : List Byte) (r : Nat) (hr : r + rows.length ≤ 32) (b : Blit)
    (px : Fin 64) (py : Fin 32) :
    (blitRows xc yc r rows b).1.pixel px py = (b.1.pixel px py ^^ coverFrom xc yc r rows px py) := by
  induction rows generalizing r b with
  | nil => simp [blitRows, coverFrom, spriteBit]
  | cons row rows ih =>
    simp only [List.length_cons] at hr
    rw [blitRows, ih (r + 1) (by omega), pixel_blitCols xc yc r (by omega) row 8 (by omega), coverFrom_cons]
    by_cases h : rowOffset yc py = r
    · rw [coverFrom_succ_of_row xc yc r rows px py h]; simp
    · simp [h]

/-- The collision output after the rows of a sprite from row `r` on: some covered pixel was set. -/
theorem collided_blitRows (xc yc : Byte) (rows : List Byte) (r : Nat) (hr : r + rows.length ≤ 32) (b : Blit) :
    (blitRows xc yc r rows b).2 = true ↔
      b.2 = true ∨ ∃ px py, coverFrom xc yc r rows px py = true ∧ b.1.pixel px py = true := by
  induction rows generalizing r b with
  | nil => simp [blitRows, coverFrom, spriteBit]
  | cons row rows ih =>
    simp only [List.length_cons] at hr
    rw [blitRows, ih (r + 1) (by omega), collided_blitCols xc yc r (by omega) row 8 (by omega), or_assoc]
    refine or_congr_right ⟨?_, ?_⟩
    · rintro (⟨c, hc, hb, hp⟩ | ⟨px, py, hcov, hp⟩)
      · refine ⟨spriteCol xc c, spriteRow yc r, ?_, hp⟩
        rw [coverFrom_cons, (eq_spriteCol_iff xc _ (show c < 64 by omega)).1 rfl,
          (eq_spriteRow_iff yc _ (show r < 32 by omega)).1 rfl]
        simp [hc, hb]
      · refine ⟨px, py, by rw [coverFrom_cons, hcov]; simp, ?_⟩
        rw [pixel_blitCols xc yc r (by omega) row 8 (by omega)] at hp
        by_cases h : rowOffset yc py = r
        · rw [coverFrom_succ_of_row xc yc r rows px py h] at hcov; simp at hcov
        · simpa [h] using hp
    · rintro ⟨px, py, hcov, hp⟩
      rw [coverFrom_cons] at hcov
      by_cases h : rowOffset yc py = r
      · rw [coverFrom_succ_of_row xc yc r rows px py h] at hcov
        simp only [Bool.or_false, Bool.and_eq_true, decide_eq_true_eq] at hcov
        refine .inl ⟨colOffset xc px, hcov.1.2, hcov.2, ?_⟩
        rw [← (eq_spriteCol_iff xc px (show colOffset xc px < 64 by omega)).2 rfl,
          ← (eq_spriteRow_iff yc py (show r < 32 by omega)).2 h]
        exact hp
      · refine .inr ⟨px, py, by simpa [h] using hcov, ?_⟩
        rw [pixel_blitCols xc yc r (by omega) row 8 (by omega)]
        simpa [h] using hp

/-! ### The whole sprite -/

theorem coverFrom_zero (xc yc : Byte) (rows : List Byte) (px : Fin 64) (py : Fin 32) :
    coverFrom xc yc 0 rows px py = coverBit xc yc rows px py := by
  simp [coverFrom, coverBit, spriteBit]

/-- Every pixel after a sprite is the old pixel XOR the sprite bit that covers it. -/
theorem pixel_drawSprite (xc yc : Byte) (rows : List Byte) (hr : rows.length ≤ 32) (fb : Framebuffer)
    (px : Fin 64) (py : Fin 32) :
    (drawSprite xc yc rows fb).1.pixel px py = (fb.pixel px py ^^ coverBit xc yc rows px py) := by
  rw [drawSprite, pixel_blitRows xc yc rows 0 (by omega), coverFrom_zero]

/-- A sprite collides exactly when a 1 bit of it covers a set pixel. -/
theorem collided_drawSprite (xc yc : Byte) (rows : List Byte) (hr : rows.length ≤ 32) (fb : Framebuffer) :
    (drawSprite xc yc rows fb).2 = true ↔ ∃ px py, coverBit xc yc rows px py = true ∧ fb.pixel px py = true := by
  rw [drawSprite, collided_blitRows xc yc rows 0 (by omega)]
  simp [coverFrom_zero]

end Sys2Proof.Machine
end

