-- ==== Sys2Proof/Laws/HostOps.lean ====
section
/-! SUPPORT. What the parts of the host's operations do: the tick of one timer, the registers a reset writes, one key, and a
frame from its parts. -/

namespace Sys2Proof.Machine

theorem tickDown_toNat (b : Byte) : (tickDown b).toNat = b.toNat - 1 := by
  unfold tickDown
  split
  · have := b.isLt; rw [BitVec.toNat_sub]; simp; omega
  · omega

theorem resetValues_resetCore (s : State) : ResetValues s.resetCore := by
  constructor <;> simp [State.resetCore, State.getV]

/-- All a key input does, seen through one key. -/
theorem key_setKey (s : State) (k j : Reg) (pressed : Bool) :
    (setKey k pressed s).key j = if j = k then pressed else s.key j := by
  simp only [State.key, setKey, Vector.getElem_set, BitVec.toNat_inj]
  by_cases h : k = j <;> simp [h, eq_comm]

/-- A frame from the conjunction of its parts, so that one `simp` can prove all of them. -/
theorem frame_of_parts (c : Changes) (s t : State)
    (h : (∀ r : Reg, r ∉ c.regs → t.getV r = s.getV r) ∧
      (∀ a : Nat, (∀ b ∈ c.mem, a % 4096 ≠ b % 4096) → t.mem.read a = s.mem.read a) ∧
      (c.i = false → t.i = s.i) ∧ (c.pc = false → t.pc = s.pc) ∧ (c.stack = false → t.stack = s.stack) ∧
      (c.delayTimer = false → t.delayTimer = s.delayTimer) ∧ (c.soundTimer = false → t.soundTimer = s.soundTimer) ∧
      (c.display = false → t.fb = s.fb) ∧ (c.display = false → t.drawFlag = s.drawFlag) ∧
      (c.wait = false → t.wait = s.wait) ∧ (c.fault = false → t.fault = s.fault) ∧ (c.draw = false → t.draw = s.draw) ∧
      (c.draw = false → t.drawCount = s.drawCount) ∧ t.keys = s.keys ∧ t.shiftQuirk = s.shiftQuirk ∧
      t.memQuirk = s.memQuirk ∧ t.rom = s.rom ∧ t.params = s.params) : Frame c s t :=
  let ⟨h1, h2, h3, h4, h5, h6, h7, h8, h9, h10, h11, h12, h13, h14, h15, h16, h17, h18⟩ := h
  ⟨h1, h2, h3, h4, h5, h6, h7, h8, h9, h10, h11, h12, h13, h14, h15, h16, h17, h18⟩

end Sys2Proof.Machine
end

