-- ==== Sys2Proof/Laws/PerInstr.lean ====
section
/-! SUPPORT. Per instruction: the word the encoder writes is one of the instruction's own row of the table of R85. -/

namespace Sys2Proof.Laws.EncodesRow

/-- The instruction's row stands in the table of R85, and the encoded word satisfies `op & mask = match` of that row. -/
def Statement (i : Instr) : Prop := i.row ∈ opcodeTable ∧ encode i &&& i.row.mask = i.row.pattern

theorem cls : Statement .cls :=
  ⟨by simp [opcodeTable, rows0to5, rows6to7, rows8, rows9toE, rowsF, Instr.row], by decide⟩

theorem ret : Statement .ret :=
  ⟨by simp [opcodeTable, rows0to5, rows6to7, rows8, rows9toE, rowsF, Instr.row], by decide⟩

theorem jp (nnn : Addr) : Statement (.jp nnn) :=
  ⟨by simp [opcodeTable, rows0to5, rows6to7, rows8, rows9toE, rowsF, Instr.row], (word_nnn_and _ nnn).trans rfl⟩

theorem call (nnn : Addr) : Statement (.call nnn) :=
  ⟨by simp [opcodeTable, rows0to5, rows6to7, rows8, rows9toE, rowsF, Instr.row], (word_nnn_and _ nnn).trans rfl⟩

theorem seImm (x : Reg) (kk : Byte) : Statement (.seImm x kk) :=
  ⟨by simp [opcodeTable, rows0to5, rows6to7, rows8, rows9toE, rowsF, Instr.row], ((and_F000_iff 0x3#4 _).2 (opFamily_word_kk _ x kk)).trans rfl⟩

theorem sneImm (x : Reg) (kk : Byte) : Statement (.sneImm x kk) :=
  ⟨by simp [opcodeTable, rows0to5, rows6to7, rows8, rows9toE, rowsF, Instr.row], ((and_F000_iff 0x4#4 _).2 (opFamily_word_kk _ x kk)).trans rfl⟩

theorem seReg (x : Reg) (y : Reg) : Statement (.seReg x y) :=
  ⟨by simp [opcodeTable, rows0to5, rows6to7, rows8, rows9toE, rowsF, Instr.row], (word_n_and _ x y _).trans rfl⟩

theorem ldImm (x : Reg) (kk : Byte) : Statement (.ldImm x kk) :=
  ⟨by simp [opcodeTable, rows0to5, rows6to7, rows8, rows9toE, rowsF, Instr.row], ((and_F000_iff 0x6#4 _).2 (opFamily_word_kk _ x kk)).trans rfl⟩

theorem addImm (x : Reg) (kk : Byte) : Statement (.addImm x kk) :=
  ⟨by simp [opcodeTable, rows0to5, rows6to7, rows8, rows9toE, rowsF, Instr.row], ((and_F000_iff 0x7#4 _).2 (opFamily_word_kk _ x kk)).trans rfl⟩

theorem ldReg (x : Reg) (y : Reg) : Statement (.ldReg x y) :=
  ⟨by simp [opcodeTable, rows0to5, rows6to7, rows8, rows9toE, rowsF, Instr.row], (word_n_and _ x y _).trans rfl⟩

theorem orReg (x : Reg) (y : Reg) : Statement (.orReg x y) :=
  ⟨by simp [opcodeTable, rows0to5, rows6to7, rows8, rows9toE, rowsF, Instr.row], (word_n_and _ x y _).trans rfl⟩

theorem andReg (x : Reg) (y : Reg) : Statement (.andReg x y) :=
  ⟨by simp [opcodeTable, rows0to5, rows6to7, rows8, rows9toE, rowsF, Instr.row], (word_n_and _ x y _).trans rfl⟩

theorem xorReg (x : Reg) (y : Reg) : Statement (.xorReg x y) :=
  ⟨by simp [opcodeTable, rows0to5, rows6to7, rows8, rows9toE, rowsF, Instr.row], (word_n_and _ x y _).trans rfl⟩

theorem addReg (x : Reg) (y : Reg) : Statement (.addReg x y) :=
  ⟨by simp [opcodeTable, rows0to5, rows6to7, rows8, rows9toE, rowsF, Instr.row], (word_n_and _ x y _).trans rfl⟩

theorem subReg (x : Reg) (y : Reg) : Statement (.subReg x y) :=
  ⟨by simp [opcodeTable, rows0to5, rows6to7, rows8, rows9toE, rowsF, Instr.row], (word_n_and _ x y _).trans rfl⟩

theorem shr (x : Reg) (y : Reg) : Statement (.shr x y) :=
  ⟨by simp [opcodeTable, rows0to5, rows6to7, rows8, rows9toE, rowsF, Instr.row], (word_n_and _ x y _).trans rfl⟩

theorem subn (x : Reg) (y : Reg) : Statement (.subn x y) :=
  ⟨by simp [opcodeTable, rows0to5, rows6to7, rows8, rows9toE, rowsF, Instr.row], (word_n_and _ x y _).trans rfl⟩

theorem shl (x : Reg) (y : Reg) : Statement (.shl x y) :=
  ⟨by simp [opcodeTable, rows0to5, rows6to7, rows8, rows9toE, rowsF, Instr.row], (word_n_and _ x y _).trans rfl⟩

theorem sneReg (x : Reg) (y : Reg) : Statement (.sneReg x y) :=
  ⟨by simp [opcodeTable, rows0to5, rows6to7, rows8, rows9toE, rowsF, Instr.row], (word_n_and _ x y _).trans rfl⟩

theorem ldI (nnn : Addr) : Statement (.ldI nnn) :=
  ⟨by simp [opcodeTable, rows0to5, rows6to7, rows8, rows9toE, rowsF, Instr.row], (word_nnn_and _ nnn).trans rfl⟩

theorem jpV0 (nnn : Addr) : Statement (.jpV0 nnn) :=
  ⟨by simp [opcodeTable, rows0to5, rows6to7, rows8, rows9toE, rowsF, Instr.row], (word_nnn_and _ nnn).trans rfl⟩

theorem rnd (x : Reg) (kk : Byte) : Statement (.rnd x kk) :=
  ⟨by simp [opcodeTable, rows0to5, rows6to7, rows8, rows9toE, rowsF, Instr.row], ((and_F000_iff 0xC#4 _).2 (opFamily_word_kk _ x kk)).trans rfl⟩

theorem drw (x : Reg) (y : Reg) (n : Nibble) : Statement (.drw x y n) :=
  ⟨by simp [opcodeTable, rows0to5, rows6to7, rows8, rows9toE, rowsF, Instr.row], ((and_F000_iff 0xD#4 _).2 (opFamily_word_n _ x y n)).trans rfl⟩

theorem skp (x : Reg) : Statement (.skp x) :=
  ⟨by simp [opcodeTable, rows0to5, rows6to7, rows8, rows9toE, rowsF, Instr.row], (word_kk_and _ x _).trans rfl⟩

theorem sknp (x : Reg) : Statement (.sknp x) :=
  ⟨by simp [opcodeTable, rows0to5, rows6to7, rows8, rows9toE, rowsF, Instr.row], (word_kk_and _ x _).trans rfl⟩

theorem ldVxDT (x : Reg) : Statement (.ldVxDT x) :=
  ⟨by simp [opcodeTable, rows0to5, rows6to7, rows8, rows9toE, rowsF, Instr.row], (word_kk_and _ x _).trans rfl⟩

theorem ldVxK (x : Reg) : Statement (.ldVxK x) :=
  ⟨by simp [opcodeTable, rows0to5, rows6to7, rows8, rows9toE, rowsF, Instr.row], (word_kk_and _ x _).trans rfl⟩

theorem ldDTVx (x : Reg) : Statement (.ldDTVx x) :=
  ⟨by simp [opcodeTable, rows0to5, rows6to7, rows8, rows9toE, rowsF, Instr.row], (word_kk_and _ x _).trans rfl⟩

theorem ldSTVx (x : Reg) : Statement (.ldSTVx x) :=
  ⟨by simp [opcodeTable, rows0to5, rows6to7, rows8, rows9toE, rowsF, Instr.row], (word_kk_and _ x _).trans rfl⟩

theorem addI (x : Reg) : Statement (.addI x) :=
  ⟨by simp [opcodeTable, rows0to5, rows6to7, rows8, rows9toE, rowsF, Instr.row], (word_kk_and _ x _).trans rfl⟩

theorem ldF (x : Reg) : Statement (.ldF x) :=
  ⟨by simp [opcodeTable, rows0to5, rows6to7, rows8, rows9toE, rowsF, Instr.row], (word_kk_and _ x _).trans rfl⟩

theorem ldB (x : Reg) : Statement (.ldB x) :=
  ⟨by simp [opcodeTable, rows0to5, rows6to7, rows8, rows9toE, rowsF, Instr.row], (word_kk_and _ x _).trans rfl⟩

theorem storeRegs (x : Reg) : Statement (.storeRegs x) :=
  ⟨by simp [opcodeTable, rows0to5, rows6to7, rows8, rows9toE, rowsF, Instr.row], (word_kk_and _ x _).trans rfl⟩

theorem loadRegs (x : Reg) : Statement (.loadRegs x) :=
  ⟨by simp [opcodeTable, rows0to5, rows6to7, rows8, rows9toE, rowsF, Instr.row], (word_kk_and _ x _).trans rfl⟩

end Sys2Proof.Laws.EncodesRow
end

