-- ==== Sys2Proof/Laws/Snapshot.lean ====
section
/-! SUPPORT. The snapshot encoding byte by byte, and the bit fields of its framebuffer and keypad. -/

namespace Sys2Proof.Machine

/-! ### Packed bits -/

theorem toNat_packBits (f : Nat → Bool) : (packBits f).toNat =
    (f 0).toNat + 2 * (f 1).toNat + 4 * (f 2).toNat + 8 * (f 3).toNat + 16 * (f 4).toNat + 32 * (f 5).toNat
      + 64 * (f 6).toNat + 128 * (f 7).toNat := by
  have h := fun j => Bool.toNat_le (f j)
  have := h 0; have := h 1; have := h 2; have := h 3; have := h 4; have := h 5; have := h 6; have := h 7
  rw [packBits, BitVec.toNat_ofNat]
  omega

/-- Bit `j` of the packed byte is `f j`. -/
theorem testBit_packBits (f : Nat → Bool) {j : Nat} (hj : j < 8) : (packBits f).toNat.testBit j = f j := by
  have hb := fun k => Bool.toNat_le (f k)
  have h0 := hb 0; have h1 := hb 1; have h2 := hb 2; have h3 := hb 3
  have h4 := hb 4; have h5 := hb 5; have h6 := hb 6; have h7 := hb 7
  rw [toNat_packBits, Nat.testBit_eq_decide_div_mod_eq, Bool.eq_iff_iff, decide_eq_true_eq, ← Bool.toNat_eq_one]
  interval_cases j <;> omega

theorem toNat_wordByte_zero {n : Nat} (h : n < 65536) : (wordByte n 0).toNat = n / 256 := by
  simp [wordByte]; omega

theorem toNat_wordByte_one (n : Nat) : (wordByte n 1).toNat = n % 256 := by simp [wordByte]

theorem byteAt_lt (p : List Byte) (off : Nat) : byteAt p off < 256 := (p.getD off 0#8).isLt

/-- A 2-byte field written back is the two bytes it was read from. -/
theorem wordByte_wordAt_zero (p : List Byte) (off : Nat) : wordByte (wordAt p off) 0 = p.getD off 0#8 := by
  have := byteAt_lt p off
  have := byteAt_lt p (off + 1)
  apply BitVec.eq_of_toNat_eq
  rw [toNat_wordByte_zero (by unfold wordAt; omega)]
  show _ = byteAt p off
  unfold wordAt; omega

theorem wordByte_wordAt_one (p : List Byte) (off : Nat) : wordByte (wordAt p off) 1 = p.getD (off + 1) 0#8 := by
  have := byteAt_lt p (off + 1)
  apply BitVec.eq_of_toNat_eq
  rw [toNat_wordByte_one]
  show _ = byteAt p (off + 1)
  unfold wordAt; omega

/-! ### The bytes of an encoding -/

variable (s : State)

theorem length_encodeSnapshot : (encodeSnapshot s).length = 4422 + s.romBytes.length := by simp [encodeSnapshot]

/-- Every byte of an encoding is the one its offset asks for. -/
theorem byteAt_encodeSnapshot {off : Nat} (h : off < 4422 + s.romBytes.length) :
    byteAt (encodeSnapshot s) off = (snapshotByte s off).toNat := by
  simp [byteAt, encodeSnapshot, List.getElem?_range h]

theorem snapshotByte_magic {k : Nat} (h : k < 4) : snapshotByte s k = snapshotMagic.getD k 0#8 := by
  simp (disch := omega) only [snapshotByte, ↓if_pos]

theorem snapshotByte_version : snapshotByte s 4 = 1#8 := by
  simp (disch := omega) only [snapshotByte, ↓if_neg, ↓if_pos]

theorem snapshotByte_mem {a : Nat} (h : a < 4096) : snapshotByte s (5 + a) = s.mem.read a := by
  simp (disch := omega) only [snapshotByte, ↓if_neg, ↓if_pos, Nat.add_sub_cancel_left]

theorem snapshotByte_reg (r : Reg) : snapshotByte s (4101 + r.toNat) = s.getV r := by
  have := r.isLt
  simp (disch := omega) only [snapshotByte, ↓if_neg, ↓if_pos, Nat.add_sub_cancel_left, regOf_toNat]

theorem snapshotByte_i {k : Nat} (h : k < 2) : snapshotByte s (4117 + k) = wordByte s.i.toNat k := by
  simp (disch := omega) only [snapshotByte, ↓if_neg, ↓if_pos, Nat.add_sub_cancel_left]

theorem snapshotByte_pc {k : Nat} (h : k < 2) : snapshotByte s (4119 + k) = wordByte s.pc.toNat k := by
  simp (disch := omega) only [snapshotByte, ↓if_neg, ↓if_pos, Nat.add_sub_cancel_left]

theorem snapshotByte_depth : snapshotByte s 4121 = BitVec.ofNat 8 s.stack.length := by
  simp (disch := omega) only [snapshotByte, ↓if_neg, ↓if_pos]

theorem snapshotByte_stack {k j : Nat} (hk : k < 16) (hj : j < 2) :
    snapshotByte s (4122 + 2 * k + j) = wordByte (s.stack.getD k 0#12).toNat j := by
  simp (disch := omega) only [snapshotByte, ↓if_neg, ↓if_pos]
  rw [show (4122 + 2 * k + j - 4122) / 2 = k by omega, show (4122 + 2 * k + j - 4122) % 2 = j by omega]

theorem snapshotByte_delay : snapshotByte s 4154 = s.delayTimer := by
  simp (disch := omega) only [snapshotByte, ↓if_neg, ↓if_pos]

theorem snapshotByte_sound : snapshotByte s 4155 = s.soundTimer := by
  simp (disch := omega) only [snapshotByte, ↓if_neg, ↓if_pos]

theorem snapshotByte_fb {j : Nat} (h : j < 256) : snapshotByte s (4156 + j) = fbByte s.fb j := by
  simp (disch := omega) only [snapshotByte, ↓if_neg, ↓if_pos, Nat.add_sub_cancel_left]

theorem snapshotByte_keys {k : Nat} (h : k < 2) : snapshotByte s (4412 + k) = keysByte s k := by
  simp (disch := omega) only [snapshotByte, ↓if_neg, ↓if_pos, Nat.add_sub_cancel_left]

theorem snapshotByte_drawFlag : snapshotByte s 4414 = flagByte s.drawFlag := by
  simp (disch := omega) only [snapshotByte, ↓if_neg, ↓if_pos]

theorem snapshotByte_waitActive : snapshotByte s 4415 = waitActive s.wait := by
  simp (disch := omega) only [snapshotByte, ↓if_neg, ↓if_pos]

theorem snapshotByte_waitRegister : snapshotByte s 4416 = waitRegister s.wait := by
  simp (disch := omega) only [snapshotByte, ↓if_neg, ↓if_pos]

theorem snapshotByte_quirks : snapshotByte s 4417 = quirksByte s := by
  simp (disch := omega) only [snapshotByte, ↓if_neg, ↓if_pos]

theorem snapshotByte_fault : snapshotByte s 4418 = faultByte s.fault := by
  simp (disch := omega) only [snapshotByte, ↓if_neg, ↓if_pos]

theorem snapshotByte_romPresent : snapshotByte s 4419 = flagByte s.rom.isSome := by
  simp (disch := omega) only [snapshotByte, ↓if_neg, ↓if_pos]

theorem snapshotByte_romLength {k : Nat} (h : k < 2) : snapshotByte s (4420 + k) = wordByte s.romBytes.length k := by
  simp (disch := omega) only [snapshotByte, ↓if_neg, ↓if_pos, Nat.add_sub_cancel_left]

theorem snapshotByte_rom (j : Nat) : snapshotByte s (4422 + j) = s.romBytes.getD j 0#8 := by
  simp (disch := omega) only [snapshotByte, ↓if_neg, Nat.add_sub_cancel_left]

/-- The framebuffer bit of a pixel. -/
theorem testBit_fbByte (fb : Framebuffer) {j : Nat} :
    (fbByte fb (j / 8)).toNat.testBit (7 - j % 8) = fb.pixelAt j := by
  rw [fbByte, testBit_packBits _ (by omega)]
  congr 1
  omega

/-- A pixel by its row-major index. -/
theorem Framebuffer.pixelAt_eq (fb : Framebuffer) (px : Fin 64) (py : Fin 32) :
    fb.pixelAt (py.1 * 64 + px.1) = fb.pixel px py := by
  have e1 : Fin.ofNat 64 (py.1 * 64 + px.1) = px := by apply Fin.ext; simp [Fin.ofNat]; try omega
  have e2 : Fin.ofNat 32 ((py.1 * 64 + px.1) / 64) = py := by apply Fin.ext; simp [Fin.ofNat]; try omega
  rw [Framebuffer.pixelAt, e1, e2]

/-- The key bits of the big-endian keys field. -/
theorem testBit_keysField (k : Reg) :
    ((keysByte s 0).toNat * 256 + (keysByte s 1).toNat).testBit k.toNat = s.key k := by
  have hk := k.isLt
  rw [Nat.mul_comm, show 256 = 2 ^ 8 by rfl, Nat.testBit_two_pow_mul_add _ (keysByte s 1).isLt]
  split
  · next h => rw [keysByte, testBit_packBits _ h]; simp [regOf]
  · next h =>
    rw [keysByte, testBit_packBits _ (by omega), show 8 * (1 - 0) + (k.toNat - 8) = k.toNat by omega, regOf_toNat]

theorem faultOfByte_faultByte (f : FaultState) : faultOfByte (faultByte f).toNat = f := by cases f <;> rfl

/-! ### Validation -/

/-- What a valid snapshot satisfies, field by field. -/
theorem snapshotValid_iff (p : List Byte) : snapshotValid p = true ↔
    p.length = 4422 + wordAt p 4420 ∧ p.take 4 = snapshotMagic ∧ byteAt p 4 = 1 ∧
    wordAt p 4117 ≤ 0x0FFF ∧ wordAt p 4119 ≤ 0x0FFF ∧ byteAt p 4121 ≤ 16 ∧
    (∀ k, k < 16 → if k < byteAt p 4121 then wordAt p (4122 + 2 * k) ≤ 0x0FFF else wordAt p (4122 + 2 * k) = 0) ∧
    byteAt p 4414 ≤ 1 ∧ byteAt p 4415 ≤ 1 ∧ byteAt p 4419 ≤ 1 ∧ byteAt p 4416 ≤ 15 ∧
    (byteAt p 4415 = 1 ∨ byteAt p 4416 = 0) ∧ byteAt p 4417 ≤ 3 ∧ byteAt p 4418 ≤ 2 ∧
    wordAt p 4420 ≤ 3584 ∧ (byteAt p 4419 = 1 ∨ wordAt p 4420 = 0) := by
  have hk : ∀ k, stackEntryValid p k = true ↔
      (if k < byteAt p 4121 then wordAt p (4122 + 2 * k) ≤ 0x0FFF else wordAt p (4122 + 2 * k) = 0) := by
    intro k; unfold stackEntryValid; split <;> exact decide_eq_true_iff
  simp only [snapshotValid, snapshotHead, Config.maxRom, Bool.and_eq_true, Bool.or_eq_true, decide_eq_true_eq,
    List.all_eq_true, List.mem_range, hk, and_assoc]
  constructor
  · rintro ⟨-, h⟩; exact h
  · rintro ⟨h, hs⟩; exact ⟨by omega, h, hs⟩

end Sys2Proof.Machine
end

