-- ==== Sys2Proof/Tests/Slice0.lean ====
section
/-! SUPPORT. Tests of the model on fixed values, and a witness of the hypotheses of every statement that has some. Expected
values come from the patterns of R85 and from the vectors W, V and P of spec/95_test_vectors.md, named at each test. -/

namespace Sys2Proof.Tests

open Sys2Proof Sys2Proof.Machine

/-! ### Helpers -/

/-- The start state of the vectors with the word `w` at PC = 0x200. -/
def at200 (w : Nat) : State := State.reset.withFetchWord 16 w

/-- The state after one step, if it is a next state. -/
def stepped (s : State) : Option State :=
  match step s with
  | .next t => some t
  | _ => none

/-- What one cycle with draw `r` answers. -/
def cycled (r : Byte) (s : State) : Option (CycleResult × State) :=
  match cycle r s with
  | .next q => some q
  | _ => none

/-- A state with memory bytes set. -/
def poke (s : State) (a : Nat) (bs : List Byte) : State := s.setMem (s.mem.writeBytes a bs)

/-- A state with both quirks set. -/
def quirky (s : State) : State := setQuirks true true s

/-- A full call stack. -/
def fullStack (s : State) : State := (List.range 16).foldl (fun t _ => t.push 0x202#12) s

/-- The policy `fault` of R216. -/
def strictKeys (s : State) : State := { s with params := { s.params with keyIndexPolicy := .fault } }

/-- The columns that are set in row `py`. -/
def litColumns (fb : Framebuffer) (py : Fin 32) : List Nat := (List.range 64).filter fun c => fb.pixel (Fin.ofNat 64 c) py

/-- A codec that meets the law of R275. -/
def plainCodec : Codec := { compress := id, decompress := some }

/-! ### Well-formedness: every check refuses an ill-formed term (R81, R82, R231) -/

theorem test_wf_refuses_register_16 : OperandKind.reg.admits 16 = false := by decide
theorem test_wf_refuses_address_4096 : OperandKind.addr.admits 4096 = false := by decide
theorem test_wf_refuses_byte_256 : OperandKind.byte.admits 256 = false := by decide
theorem test_wf_refuses_nibble_16 : OperandKind.nibble.admits 16 = false := by decide
theorem test_wf_admits_largest : OperandKind.reg.admits 15 ∧ OperandKind.addr.admits 4095 ∧ OperandKind.byte.admits 255 ∧
    OperandKind.nibble.admits 15 := by decide
theorem test_wf_instruction : (Instr.drw 0xF#4 0#4 0xF#4).wellFormed = true := by decide
/-- W11: one byte too many. -/
theorem test_wf_refuses_rom_3585 : romWellFormed (List.replicate 3585 0#8) = false := by
  rw [romWellFormed, List.length_replicate]; decide
/-- W11: the longest ROM. -/
theorem test_wf_admits_rom_3584 : romWellFormed (List.replicate 3584 0#8) = true := by
  rw [romWellFormed, List.length_replicate]; decide

/-! ### Decoding: a word written out from the pattern of R85 for every constructor -/

theorem test_decode_cls : decodeWord 0b0000000011100000#16 = .ok .cls := by decide
theorem test_decode_ret : decodeWord 0b0000000011101110#16 = .ok .ret := by decide
theorem test_decode_jp : decodeWord 0b0001101010111100#16 = .ok (.jp 0xABC#12) := by decide
theorem test_decode_call : decodeWord 0b0010001000010000#16 = .ok (.call 0x210#12) := by decide
theorem test_decode_seImm : decodeWord 0b0011001101000010#16 = .ok (.seImm 3#4 0x42#8) := by decide
theorem test_decode_sneImm : decodeWord 0b0100001101000010#16 = .ok (.sneImm 3#4 0x42#8) := by decide
theorem test_decode_seReg : decodeWord 0b0101000100100000#16 = .ok (.seReg 1#4 2#4) := by decide
theorem test_decode_ldImm : decodeWord 0b0110101001011100#16 = .ok (.ldImm 0xA#4 0x5C#8) := by decide
theorem test_decode_addImm : decodeWord 0b0111001100001010#16 = .ok (.addImm 3#4 0x0A#8) := by decide
theorem test_decode_ldReg : decodeWord 0b1000000100100000#16 = .ok (.ldReg 1#4 2#4) := by decide
theorem test_decode_orReg : decodeWord 0b1000000100100001#16 = .ok (.orReg 1#4 2#4) := by decide
theorem test_decode_andReg : decodeWord 0b1000000100100010#16 = .ok (.andReg 1#4 2#4) := by decide
theorem test_decode_xorReg : decodeWord 0b1000000100100011#16 = .ok (.xorReg 1#4 2#4) := by decide
theorem test_decode_addReg : decodeWord 0b1000000100100100#16 = .ok (.addReg 1#4 2#4) := by decide
theorem test_decode_subReg : decodeWord 0b1000000100100101#16 = .ok (.subReg 1#4 2#4) := by decide
theorem test_decode_shr : decodeWord 0b1000000100100110#16 = .ok (.shr 1#4 2#4) := by decide
theorem test_decode_subn : decodeWord 0b1000000100100111#16 = .ok (.subn 1#4 2#4) := by decide
theorem test_decode_shl : decodeWord 0b1000000100101110#16 = .ok (.shl 1#4 2#4) := by decide
theorem test_decode_sneReg : decodeWord 0b1001000100100000#16 = .ok (.sneReg 1#4 2#4) := by decide
theorem test_decode_ldI : decodeWord 0b1010000100100011#16 = .ok (.ldI 0x123#12) := by decide
theorem test_decode_jpV0 : decodeWord 0b1011001100000000#16 = .ok (.jpV0 0x300#12) := by decide
theorem test_decode_rnd : decodeWord 0b1100001100001111#16 = .ok (.rnd 3#4 0x0F#8) := by decide
theorem test_decode_drw : decodeWord 0b1101000100100101#16 = .ok (.drw 1#4 2#4 5#4) := by decide
theorem test_decode_skp : decodeWord 0b1110000110011110#16 = .ok (.skp 1#4) := by decide
theorem test_decode_sknp : decodeWord 0b1110000110100001#16 = .ok (.sknp 1#4) := by decide
theorem test_decode_ldVxDT : decodeWord 0b1111001000000111#16 = .ok (.ldVxDT 2#4) := by decide
theorem test_decode_ldVxK : decodeWord 0b1111001100001010#16 = .ok (.ldVxK 3#4) := by decide
theorem test_decode_ldDTVx : decodeWord 0b1111001000010101#16 = .ok (.ldDTVx 2#4) := by decide
theorem test_decode_ldSTVx : decodeWord 0b1111001000011000#16 = .ok (.ldSTVx 2#4) := by decide
theorem test_decode_addI : decodeWord 0b1111001000011110#16 = .ok (.addI 2#4) := by decide
theorem test_decode_ldF : decodeWord 0b1111010000101001#16 = .ok (.ldF 4#4) := by decide
theorem test_decode_ldB : decodeWord 0b1111000000110011#16 = .ok (.ldB 0#4) := by decide
theorem test_decode_storeRegs : decodeWord 0b1111000101010101#16 = .ok (.storeRegs 1#4) := by decide
theorem test_decode_loadRegs : decodeWord 0b1111001001100101#16 = .ok (.loadRegs 2#4) := by decide
/-- R80: two bytes are needed, and the bytes after them are left (R62: the first byte is the high one). -/
theorem test_decode_bytes : decode [0x22#8, 0x10#8, 0x99#8] = .ok (.call 0x210#12, [0x99#8]) ∧
    decode [0x22#8] = .error .truncated := by decide
theorem test_encode_bytes : encodeBytes (.call 0x210#12) = [0x22#8, 0x10#8] := by decide

/-! ### Reset state (R66, R67, R260, R261) -/

/-- The glyphs 0, A and F of the default font at 0x050, 0x082 and 0x09B (V60, V62, V98). -/
theorem test_reset_font : (List.range 5).map (fun k => State.reset.mem.read (0x050 + k)) = [0xF0#8, 0x90#8, 0x90#8, 0x90#8, 0xF0#8] ∧
    (List.range 5).map (fun k => State.reset.mem.read (0x082 + k)) = [0xF0#8, 0x90#8, 0xF0#8, 0x90#8, 0x90#8] ∧
    (List.range 5).map (fun k => State.reset.mem.read (0x09B + k)) = [0xF0#8, 0x80#8, 0xF0#8, 0x80#8, 0x80#8] := by
  decide
theorem test_reset_memory_edges : State.reset.mem.read 0x04F = 0#8 ∧ State.reset.mem.read 0x0A0 = 0#8 ∧
    State.reset.mem.read 0xFFF = 0#8 ∧ State.reset.mem.read 0x1050 = 0xF0#8 := by decide
/-- V4, and what the run from `State.reset` does: an empty memory is unknown opcodes (assumption log 6). -/
theorem test_reset_first_cycle : cycled 0#8 State.reset = some (.unknown 0#16, State.reset.setPc 0x202#12) := by
  decide

/-! ### The cycle -/

/-- V1: fetch at 0xFFE, PC wraps to 0. -/
theorem test_cycle_top_of_memory :
    (cycled 0#8 (poke (State.reset.setPc 0xFFE#12) 0xFFE [0x60#8, 0x12#8])).map (fun q => (q.1, q.2.pc, q.2.getV 0#4))
      = some (.executed 0x6012#16, 0x000#12, 0x12#8) := by decide
/-- V2: PC = 0xFFF. -/
theorem test_cycle_fetch_blocked :
    cycled 0#8 (State.reset.setPc 0xFFF#12) = some (.fetchBlocked, State.reset.setPc 0xFFF#12) := by decide
/-- V3: an unknown opcode. -/
theorem test_cycle_unknown : (cycled 0#8 (at200 0x0123)).map (fun q => (q.1, q.2.pc)) = some (.unknown 0x0123#16, 0x202#12) := by
  decide
/-- V7 and V10: the fault test comes first. -/
theorem test_cycle_halted : (cycled 0#8 ((State.reset.raise .stackOverflow).setWait (.waiting 2#4))).map (fun q => (q.1, q.2.wait))
    = some (.halted, .waiting 2#4) := by decide
/-- V11: the wait test comes before the fetch guard. -/
theorem test_cycle_wait_before_guard :
    (cycled 0#8 (setKey 9#4 true ((State.reset.setPc 0xFFF#12).setWait (.waiting 4#4)))).map
      (fun q => (q.1, q.2.getV 4#4, q.2.wait)) = some (.keyLatched 9#4, 9#8, .idle) := by decide

/-! ### Control flow -/

/-- V12. -/
theorem test_ret_empty : (stepped (at200 0x00EE)).map (fun t => (t.pc, t.stack)) = some (0x202#12, []) := by decide
/-- V13, with an older entry below. -/
theorem test_ret_pops : (stepped (((at200 0x00EE).push 0x111#12).push 0x206#12)).map (fun t => (t.pc, t.stack))
    = some (0x206#12, [0x111#12]) := by decide
/-- V14. -/
theorem test_jp : (stepped (at200 0x1ABC)).map (fun t => t.pc) = some 0xABC#12 := by decide
/-- W12. -/
theorem test_call_pushes_advanced_pc : (stepped ((at200 0x2210).push 0x300#12)).map (fun t => (t.pc, t.stack))
    = some (0x210#12, [0x300#12, 0x202#12]) := by decide
/-- V19. -/
theorem test_call_overflow : (cycled 0#8 (fullStack (at200 0x2500))).map (fun q => (q.1, q.2.pc, q.2.stack.length, q.2.fault))
    = some (.stackOverflow 0x2500#16, 0x202#12, 16, .stackOverflow) := by decide
/-- V20 and V21. -/
theorem test_seImm : (stepped ((at200 0x3342).setV 3#4 0x42#8)).map (fun t => t.pc) = some 0x204#12 ∧
    (stepped ((at200 0x3342).setV 3#4 0x41#8)).map (fun t => t.pc) = some 0x202#12 := by decide
/-- V23 and V24. -/
theorem test_sneImm : (stepped ((at200 0x4342).setV 3#4 0x41#8)).map (fun t => t.pc) = some 0x204#12 ∧
    (stepped ((at200 0x4342).setV 3#4 0x42#8)).map (fun t => t.pc) = some 0x202#12 := by decide
/-- V25 and V26. -/
theorem test_seReg : (stepped (((at200 0x5120).setV 1#4 7#8).setV 2#4 7#8)).map (fun t => t.pc) = some 0x204#12 ∧
    (stepped (((at200 0x5120).setV 1#4 7#8).setV 2#4 8#8)).map (fun t => t.pc) = some 0x202#12 := by decide
/-- V27 and V28. -/
theorem test_sneReg : (stepped (((at200 0x9120).setV 1#4 7#8).setV 2#4 8#8)).map (fun t => t.pc) = some 0x204#12 ∧
    (stepped (((at200 0x9120).setV 1#4 7#8).setV 2#4 7#8)).map (fun t => t.pc) = some 0x202#12 := by decide
/-- V31 and V32: V0 is added, V1 is not. -/
theorem test_jpV0 : (stepped ((at200 0xBFFF).setV 0#4 0xFF#8)).map (fun t => t.pc) = some 0x0FE#12 ∧
    (stepped (((at200 0xBFFE).setV 0#4 1#8).setV 1#4 0x50#8)).map (fun t => t.pc) = some 0xFFF#12 := by decide

/-! ### Register loads and ALU -/

/-- W1. -/
theorem test_ldImm : (stepped (at200 0x6A5C)).map (fun t => (t.getV 0xA#4, t.pc)) = some (0x5C#8, 0x202#12) := by decide
/-- W2. -/
theorem test_addImm_wraps : (stepped ((at200 0x730A).setV 3#4 250#8)).map (fun t => t.getV 3#4) = some 4#8 := by decide
/-- V34: no flag. -/
theorem test_addImm_no_flag : (stepped (((at200 0x7001).setV 0#4 0xFF#8).setV 0xF#4 0x55#8)).map
    (fun t => (t.getV 0#4, t.getV 0xF#4)) = some (0#8, 0x55#8) := by decide
/-- V35. -/
theorem test_ldReg : (stepped (((at200 0x8120).setV 1#4 0x12#8).setV 2#4 0x34#8)).map (fun t => (t.getV 1#4, t.getV 2#4))
    = some (0x34#8, 0x34#8) := by decide
/-- V36. -/
theorem test_orReg : (stepped ((((at200 0x8121).setV 1#4 0xF0#8).setV 2#4 0x0F#8).setV 0xF#4 9#8)).map
    (fun t => (t.getV 1#4, t.getV 0xF#4)) = some (0xFF#8, 9#8) := by decide
/-- V36. -/
theorem test_andReg : (stepped ((((at200 0x8122).setV 1#4 0xF0#8).setV 2#4 0x0F#8).setV 0xF#4 9#8)).map
    (fun t => (t.getV 1#4, t.getV 0xF#4)) = some (0x00#8, 9#8) := by decide
/-- V37. -/
theorem test_xorReg_self : (stepped ((at200 0x8113).setV 1#4 0xAA#8)).map (fun t => t.getV 1#4) = some 0#8 := by decide
/-- W3. -/
theorem test_addReg : (stepped (((at200 0x8124).setV 1#4 200#8).setV 2#4 100#8)).map (fun t => (t.getV 1#4, t.getV 0xF#4))
    = some (44#8, 1#8) := by decide
/-- V40 and V41: with x = F the carry wins. -/
theorem test_addReg_into_vf : (stepped (((at200 0x8F14).setV 0xF#4 0x80#8).setV 1#4 0x80#8)).map (fun t => t.getV 0xF#4) = some 1#8 ∧
    (stepped (((at200 0x8F14).setV 0xF#4 0x10#8).setV 1#4 1#8)).map (fun t => t.getV 0xF#4) = some 0#8 := by decide
/-- V43. -/
theorem test_subReg_borrow : (stepped (((at200 0x8125).setV 1#4 5#8).setV 2#4 7#8)).map (fun t => (t.getV 1#4, t.getV 0xF#4))
    = some (254#8, 0#8) := by decide
/-- V44: equal operands do not borrow. -/
theorem test_subReg_equal : (stepped (((at200 0x8125).setV 1#4 7#8).setV 2#4 7#8)).map (fun t => (t.getV 1#4, t.getV 0xF#4))
    = some (0#8, 1#8) := by decide
/-- V49 and W7: the quirk selects the source. -/
theorem test_shr_quirk : (stepped (((at200 0x8126).setV 1#4 0#8).setV 2#4 7#8)).map (fun t => (t.getV 1#4, t.getV 0xF#4))
      = some (3#8, 1#8) ∧
    (stepped (quirky (((at200 0x8126).setV 1#4 0#8).setV 2#4 7#8))).map (fun t => (t.getV 1#4, t.getV 0xF#4))
      = some (0#8, 0#8) := by decide
/-- V51: with x = F the result wins. -/
theorem test_shr_into_vf : (stepped ((at200 0x8FF6).setV 0xF#4 5#8)).map (fun t => t.getV 0xF#4) = some 2#8 := by decide
/-- V47 and V48. -/
theorem test_subn : (stepped (((at200 0x8127).setV 1#4 5#8).setV 2#4 7#8)).map (fun t => (t.getV 1#4, t.getV 0xF#4))
      = some (2#8, 1#8) ∧
    (stepped (((at200 0x8127).setV 1#4 7#8).setV 2#4 5#8)).map (fun t => (t.getV 1#4, t.getV 0xF#4))
      = some (254#8, 0#8) := by decide
/-- V52. -/
theorem test_shl_quirk : (stepped (((at200 0x812E).setV 1#4 0#8).setV 2#4 0x81#8)).map (fun t => (t.getV 1#4, t.getV 0xF#4))
      = some (2#8, 1#8) ∧
    (stepped (quirky (((at200 0x812E).setV 1#4 0#8).setV 2#4 0x81#8))).map (fun t => (t.getV 1#4, t.getV 0xF#4))
      = some (0#8, 0#8) := by decide
/-- V53. -/
theorem test_shl_into_vf : (stepped ((at200 0x8F1E).setV 1#4 0x81#8)).map (fun t => t.getV 0xF#4) = some 2#8 := by decide
/-- V55 and V57: the draw is the cycle's argument. -/
theorem test_rnd : (cycled 0xAB#8 (at200 0xC30F)).map (fun q => q.2.getV 3#4) = some 0x0B#8 ∧
    (cycled 0xAB#8 (at200 0xC3FF)).map (fun q => q.2.getV 3#4) = some 0xAB#8 := by decide

/-! ### Index register, loads and stores -/

/-- V58. -/
theorem test_ldI : (stepped (at200 0xA123)).map (fun t => t.i) = some 0x123#12 := by decide
/-- V59. -/
theorem test_addI_wraps : (stepped ((((at200 0xF21E).setI 0xFFF#12).setV 2#4 2#8).setV 0xF#4 7#8)).map
    (fun t => (t.i, t.getV 0xF#4)) = some (0x001#12, 7#8) := by decide
/-- V61 and V62. -/
theorem test_ldF : (stepped ((at200 0xF429).setV 4#4 0x1A#8)).map (fun t => t.i) = some 0x082#12 ∧
    (stepped ((at200 0xF429).setV 4#4 0x0F#8)).map (fun t => t.i) = some 0x09B#12 := by decide
/-- V64. -/
theorem test_ldB_wraps : (stepped (((at200 0xF033).setI 0xFFE#12).setV 0#4 255#8)).map
    (fun t => (t.mem.read 0xFFE, t.mem.read 0xFFF, t.mem.read 0x000, t.i)) = some (2#8, 5#8, 5#8, 0xFFE#12) := by decide
/-- V66 without the quirk. -/
theorem test_storeRegs : (stepped ((((at200 0xF155).setI 0x300#12).setV 0#4 1#8).setV 1#4 2#8)).map
    (fun t => (t.mem.read 0x300, t.mem.read 0x301, t.mem.read 0x302, t.i)) = some (1#8, 2#8, 0#8, 0x300#12) := by decide
/-- V67. -/
theorem test_storeRegs_wraps :
    (stepped (quirky ((((((at200 0xF355).setI 0xFFE#12).setV 0#4 1#8).setV 1#4 2#8).setV 2#4 3#8).setV 3#4 4#8))).map
      (fun t => (t.mem.read 0xFFE, t.mem.read 0xFFF, t.mem.read 0, t.mem.read 1, t.i))
      = some (1#8, 2#8, 3#8, 4#8, 0x002#12) := by decide
/-- V70. -/
theorem test_loadRegs : (stepped (((poke (at200 0xF265) 0x300 [2#8, 5#8, 4#8, 6#8]).setI 0x300#12).setV 3#4 0x99#8)).map
    (fun t => (t.getV 0#4, t.getV 1#4, t.getV 2#4, t.getV 3#4, t.i)) = some (2#8, 5#8, 4#8, 0x99#8, 0x300#12) := by
  decide
/-- V69 under `mem_quirk`: VF is loaded too. -/
theorem test_loadRegs_all : (stepped (quirky ((poke (at200 0xFF65) 0x30F [0x0F#8]).setI 0x300#12))).map
    (fun t => (t.getV 0xF#4, t.i)) = some (0x0F#8, 0x310#12) := by decide

/-! ### Display -/

/-- V71. -/
theorem test_cls : (stepped { at200 0x00E0 with fb := State.reset.fb.setPixel 5 6 true, drawFlag := false }).map
    (fun t => (t.fb.pixel 5 6, t.drawFlag)) = some (false, true) := by decide
/-- W6: a row wraps at the right edge. -/
theorem test_drw_wraps : (stepped (((poke (at200 0xD011) 0x300 [0xFF#8]).setI 0x300#12).setV 0#4 60#8)).map
    (fun t => (litColumns t.fb 0, litColumns t.fb 1, t.getV 0xF#4))
      = some ([0, 1, 2, 3, 60, 61, 62, 63], [], 0#8) := by decide
/-- V77: with x = F the old VF is the column. -/
theorem test_drw_old_vf : (stepped (((poke (at200 0xDF01) 0x300 [0x80#8]).setI 0x300#12).setV 0xF#4 5#8)).map
    (fun t => (t.fb.pixel 5 0, t.getV 0xF#4)) = some (true, 0#8) := by decide

/-- V75: a set pixel under a 1 bit is cleared and reported. -/
theorem test_drw_collision : (stepped { (poke (at200 0xD011) 0x300 [0x81#8]).setI 0x300#12 with
      fb := State.reset.fb.setPixel 0 0 true }).map (fun t => (litColumns t.fb 0, t.getV 0xF#4)) = some ([7], 1#8) := by
  decide

/-! ### Timers and keypad -/

/-- V82. -/
theorem test_ldVxDT : (stepped ((at200 0xF207).setDelay 0x3C#8)).map (fun t => (t.getV 2#4, t.delayTimer)) = some (0x3C#8, 0x3C#8) := by
  decide
/-- V83. -/
theorem test_ldDTVx : (stepped ((at200 0xF215).setV 2#4 0x10#8)).map (fun t => (t.delayTimer, t.soundTimer)) = some (0x10#8, 0#8) := by
  decide
/-- V83. -/
theorem test_ldSTVx : (stepped ((at200 0xF218).setV 2#4 0x10#8)).map (fun t => (t.delayTimer, t.soundTimer)) = some (0#8, 0x10#8) := by
  decide
/-- V87 and V88: the low nibble of V1 is the key. -/
theorem test_skp : (stepped ((at200 0xE19E).setV 1#4 3#8)).map (fun t => t.pc) = some 0x202#12 ∧
    (stepped (setKey 3#4 true ((at200 0xE19E).setV 1#4 0x13#8))).map (fun t => t.pc) = some 0x204#12 := by decide
/-- V89. -/
theorem test_skp_strict : (cycled 0#8 (strictKeys ((at200 0xE19E).setV 1#4 0x13#8))).map (fun q => (q.1, q.2.pc, q.2.fault))
    = some (.keyIndexOutOfRange 0xE19E#16, 0x202#12, .keyIndexOutOfRange) := by decide
/-- V87. -/
theorem test_sknp : (stepped ((at200 0xE1A1).setV 1#4 3#8)).map (fun t => t.pc) = some 0x204#12 ∧
    (stepped (setKey 3#4 true ((at200 0xE1A1).setV 1#4 3#8))).map (fun t => t.pc) = some 0x202#12 := by decide
/-- W10 and V90: the wait begins although a key is pressed. -/
theorem test_ldVxK : (stepped (setKey 6#4 true (at200 0xF30A))).map (fun t => (t.wait, t.pc, t.getV 3#4))
    = some (.waiting 3#4, 0x202#12, 0#8) := by decide
/-- W10: the lowest of two keys is latched and nothing is fetched. -/
theorem test_poll_lowest_key : (cycled 0#8 (setKey 7#4 true (setKey 3#4 true (State.reset.setWait (.waiting 5#4))))).map
    (fun q => (q.1, q.2.getV 5#4, q.2.wait, q.2.pc)) = some (.keyLatched 3#4, 3#8, .idle, 0x200#12) := by decide

/-! ### Host operations -/

/-- W9. -/
theorem test_ticks : ((tickTimers (tickTimers (tickTimers (State.reset.setDelay 5#8)))).delayTimer) = 2#8 ∧
    (tickTimers State.reset).delayTimer = 0#8 := by decide
/-- V93. -/
theorem test_construct : construct defaultParams true false = { State.reset with shiftQuirk := true } := by decide +kernel
/-- V94: memory below 0x200 and the keypad are kept, the ROM comes back. -/
theorem test_soft_reset :
    (let t := softReset (setKey 2#4 true (poke (poke (loadRom [0x12#8, 0x00#8] State.reset).2 0x050 [0#8]) 0x210 [0x77#8]));
      (t.mem.read 0x050, t.mem.read 0x200, t.mem.read 0x210, t.key 2#4, t.rom)) =
      (0#8, 0x12#8, 0#8, true, some [0x12#8, 0#8]) := by decide
/-- V95: the font is rewritten, the ROM is gone. -/
theorem test_hard_reset :
    (let t := hardReset (setKey 2#4 true (poke (loadRom [0x12#8, 0x00#8] State.reset).2 0x050 [0#8]));
      (t.mem.read 0x050, t.mem.read 0x200, t.key 2#4, t.rom)) = (0xF0#8, 0#8, true, none) := by decide +kernel
/-- R230: the code of an error, as the host sees it. -/
theorem test_error_code : ((HostResult.loaded (.romTooLarge 3585)).error?.map ErrorReport.code) = some 1 ∧
    ((HostResult.cycled (.unknown 0#16)).error?.map ErrorReport.code) = some 3 := by decide
/-- V98: bytes of the snapshot of a block with keys 3 and 10 pressed, `mem_quirk` set and a two-byte ROM. -/
theorem test_snapshot_bytes :
    (let s := setKey 10#4 true (setKey 3#4 true (loadRom [0x12#8, 0x00#8] (construct defaultParams false true)).2);
      [0, 3, 4, 85, 86, 517, 4119, 4412, 4413, 4414, 4417, 4419, 4421, 4422].map (snapshotByte s)) =
      [0x43#8, 0x4D#8, 1#8, 0xF0#8, 0x90#8, 0x12#8, 0x02#8, 0x04#8, 0x08#8, 1#8, 2#8, 1#8, 2#8, 0x12#8] := by decide +kernel
/-- V99 and V100: framebuffer and stack bytes. -/
theorem test_snapshot_fields :
    (let s := (State.reset.push 0x206#12).push 0x31A#12;
      let t := { s with fb := ((s.fb.setPixel 0 0 true).setPixel 7 0 true).setPixel 8 1 true };
      [4121, 4122, 4123, 4124, 4125, 4126, 4156, 4157, 4164, 4165].map (snapshotByte t)) =
      [2#8, 0x02#8, 0x06#8, 0x03#8, 0x1A#8, 0#8, 0x81#8, 0#8, 0#8, 0x80#8] := by decide

/-! ### Witnesses: concrete values that meet the hypotheses of each statement, a witness for each clause

The words are the lowest and the highest of each row of R85. -/

theorem witness_RetPopsOrDoesNothing_words : 0x00EE#16 &&& 0xFFFF#16 = 0x00EE#16 := by decide
theorem witness_JumpsSetPc_words : 0x1000#16 &&& 0xF000#16 = 0x1000#16 ∧
    0x1FFF#16 &&& 0xF000#16 = 0x1000#16 ∧
    0xB000#16 &&& 0xF000#16 = 0xB000#16 ∧
    0xBFFF#16 &&& 0xF000#16 = 0xB000#16 := by decide
theorem witness_CallPushesOrOverflows_words : 0x2000#16 &&& 0xF000#16 = 0x2000#16 ∧
    0x2FFF#16 &&& 0xF000#16 = 0x2000#16 := by decide
theorem witness_SkipsOnByteComparison_words : 0x3000#16 &&& 0xF000#16 = 0x3000#16 ∧
    0x3FFF#16 &&& 0xF000#16 = 0x3000#16 ∧
    0x4000#16 &&& 0xF000#16 = 0x4000#16 ∧
    0x4FFF#16 &&& 0xF000#16 = 0x4000#16 := by decide
theorem witness_SkipsOnRegisterComparison_words : 0x5000#16 &&& 0xF00F#16 = 0x5000#16 ∧
    0x5FF0#16 &&& 0xF00F#16 = 0x5000#16 ∧
    0x9000#16 &&& 0xF00F#16 = 0x9000#16 ∧
    0x9FF0#16 &&& 0xF00F#16 = 0x9000#16 := by decide
theorem witness_ImmediateLoadAndAdd_words : 0x6000#16 &&& 0xF000#16 = 0x6000#16 ∧
    0x6FFF#16 &&& 0xF000#16 = 0x6000#16 ∧
    0x7000#16 &&& 0xF000#16 = 0x7000#16 ∧
    0x7FFF#16 &&& 0xF000#16 = 0x7000#16 := by decide
theorem witness_CopyAndLogicWriteOnlyVx_words : 0x8000#16 &&& 0xF00F#16 = 0x8000#16 ∧
    0x8FF0#16 &&& 0xF00F#16 = 0x8000#16 ∧
    0x8FF1#16 &&& 0xF00F#16 = 0x8001#16 ∧
    0x8FF2#16 &&& 0xF00F#16 = 0x8002#16 ∧
    0x8FF3#16 &&& 0xF00F#16 = 0x8003#16 := by decide
theorem witness_AddWritesSumAndCarry_words : 0x8004#16 &&& 0xF00F#16 = 0x8004#16 ∧
    0x8FF4#16 &&& 0xF00F#16 = 0x8004#16 := by decide
theorem witness_SubtractionsWriteDifferenceAndNotBorrow_words : 0x8005#16 &&& 0xF00F#16 = 0x8005#16 ∧
    0x8FF5#16 &&& 0xF00F#16 = 0x8005#16 ∧
    0x8007#16 &&& 0xF00F#16 = 0x8007#16 ∧
    0x8FF7#16 &&& 0xF00F#16 = 0x8007#16 := by decide
theorem witness_ShiftRightFollowsQuirk_words : 0x8006#16 &&& 0xF00F#16 = 0x8006#16 ∧
    0x8FF6#16 &&& 0xF00F#16 = 0x8006#16 := by decide
theorem witness_ShiftLeftFollowsQuirk_words : 0x800E#16 &&& 0xF00F#16 = 0x800E#16 ∧
    0x8FFE#16 &&& 0xF00F#16 = 0x800E#16 := by decide
theorem witness_RandomByteIsMasked_words : 0xC000#16 &&& 0xF000#16 = 0xC000#16 ∧
    0xCFFF#16 &&& 0xF000#16 = 0xC000#16 := by decide
theorem witness_IndexRegisterWrites_words : 0xA000#16 &&& 0xF000#16 = 0xA000#16 ∧
    0xAFFF#16 &&& 0xF000#16 = 0xA000#16 ∧
    0xF01E#16 &&& 0xF0FF#16 = 0xF01E#16 ∧
    0xFF1E#16 &&& 0xF0FF#16 = 0xF01E#16 ∧
    0xF029#16 &&& 0xF0FF#16 = 0xF029#16 ∧
    0xFF29#16 &&& 0xF0FF#16 = 0xF029#16 := by decide
theorem witness_BcdStoresThreeDigits_words : 0xF033#16 &&& 0xF0FF#16 = 0xF033#16 ∧
    0xFF33#16 &&& 0xF0FF#16 = 0xF033#16 := by decide
theorem witness_StoreRegistersToMemory_words : 0xF055#16 &&& 0xF0FF#16 = 0xF055#16 ∧
    0xFF55#16 &&& 0xF0FF#16 = 0xF055#16 := by decide
theorem witness_LoadRegistersFromMemory_words : 0xF065#16 &&& 0xF0FF#16 = 0xF065#16 ∧
    0xFF65#16 &&& 0xF0FF#16 = 0xF065#16 := by decide
theorem witness_ClsClearsDisplay_words : 0x00E0#16 &&& 0xFFFF#16 = 0x00E0#16 := by decide
theorem witness_DrawXorsSpriteAndReportsCollision_words : 0xD000#16 &&& 0xF000#16 = 0xD000#16 ∧
    0xDFFF#16 &&& 0xF000#16 = 0xD000#16 := by decide
theorem witness_TimerTransfers_words : 0xF007#16 &&& 0xF0FF#16 = 0xF007#16 ∧
    0xFF07#16 &&& 0xF0FF#16 = 0xF007#16 ∧
    0xF015#16 &&& 0xF0FF#16 = 0xF015#16 ∧
    0xFF15#16 &&& 0xF0FF#16 = 0xF015#16 ∧
    0xF018#16 &&& 0xF0FF#16 = 0xF018#16 ∧
    0xFF18#16 &&& 0xF0FF#16 = 0xF018#16 := by decide
theorem witness_KeySkipsFollowKeypad_words : 0xE09E#16 &&& 0xF0FF#16 = 0xE09E#16 ∧
    0xEF9E#16 &&& 0xF0FF#16 = 0xE09E#16 ∧
    0xE0A1#16 &&& 0xF0FF#16 = 0xE0A1#16 ∧
    0xEFA1#16 &&& 0xF0FF#16 = 0xE0A1#16 := by decide
theorem witness_WaitForKeyEntersWaitState_words : 0xF00A#16 &&& 0xF0FF#16 = 0xF00A#16 ∧
    0xFF0A#16 &&& 0xF0FF#16 = 0xF00A#16 := by decide

theorem witness_EncodeOfDecodeIsIdentity : decodeWord 0xDFFF#16 = .ok (.drw 0xF#4 0xF#4 0xF#4) := by decide
theorem witness_DecoderFollowsOpcodeTable : decodeWord 0xFF65#16 = .ok (.loadRegs 0xF#4) ∧
    decodeWord 0xFFFF#16 = .error (.unknownOpcode 0xFFFF#16) := by decide
theorem witness_OpcodeRowsAreDisjoint : (⟨"CLS", 0xFFFF#16, 0x00E0#16⟩ : OpcodeRow) ∈ opcodeTable ∧
    0x00E0#16 &&& 0xFFFF#16 = 0x00E0#16 := by decide
theorem witness_RetPopsOrDoesNothing : (State.reset.push 0xFFF#12).stack = [] ++ [0xFFF#12] ∧ State.reset.stack = [] := by decide
theorem witness_CallPushesOrOverflows : (fullStack State.reset).dropTop.stack.length < 16 ∧
    (fullStack State.reset).stack.length = 16 := by decide
theorem witness_SkipsOnRegisterComparison : opFamily 0x5121#16 = 0x5#4 ∧ opN 0x5121#16 ≠ 0#4 ∧ opFamily 0x9FFF#16 = 0x9#4 ∧
    opN 0x9FFF#16 ≠ 0#4 := by decide
theorem witness_BalancedCallsAndReturnsRestoreState : State.reset.stack.length + (List.replicate 16 0x300#12).length ≤ 16 ∧
    (fullStack State.reset).stack.length + ([] : List Addr).length ≤ 16 := by decide
/-- The clauses of the flag instructions that exclude x = F, and those that do not, both have operands. -/
theorem witness_flag_registers : (0xE#4 : Reg) ≠ 0xF#4 ∧ ¬ (0xF#4 : Reg) ≠ 0xF#4 := by decide
theorem witness_ShiftFollowsQuirk : (7#8 : Byte) = (if (State.reset.setV 2#4 7#8).shiftQuirk then
    (State.reset.setV 2#4 7#8).getV 1#4 else (State.reset.setV 2#4 7#8).getV 2#4) ∧
    (0#8 : Byte) = (if (quirky State.reset).shiftQuirk then (quirky State.reset).getV 1#4 else (quirky State.reset).getV 2#4) := by
  decide
theorem witness_RandomByteIsMasked : (State.reset.setDraw (some 0xAB#8)).draw = some 0xAB#8 ∧ State.reset.draw = none ∧
    (0x7F#8 : Byte).getLsbD 7 = false := by decide
theorem witness_StoreRegistersToMemory : (0#4 : Reg).toNat ≤ (0#4 : Reg).toNat ∧ (0xF#4 : Reg).toNat ≤ (0xF#4 : Reg).toNat := by
  decide
theorem witness_AccessesAreMaskedAndPrecise : State.reset.mem.wf = true ∧ (State.reset.mem.write 0x1050 0#8).wf = true := by decide
theorem witness_FetchSeesStoredRegisters : (0#4 : Reg).toNat < (1#4 : Reg).toNat ∧ (0xE#4 : Reg).toNat < (0xF#4 : Reg).toNat ∧
    (∃ t, exec (.storeRegs 1#4) State.reset = .next t) ∧ (∃ t, exec (.storeRegs 0xF#4) State.reset = .next t) :=
  ⟨by decide, by decide, ⟨_, rfl⟩, ⟨_, rfl⟩⟩
/-- A covered set pixel, a clear framebuffer, and the sprite of no rows. -/
theorem witness_DrawXorsSpriteAndReportsCollision :
    ([0x80#8] = (List.range (1#4 : Nibble).toNat).map fun r => (poke (at200 0xD011) 0 [0x80#8]).mem.read
      ((poke (at200 0xD011) 0 [0x80#8]).indexAddr r)) ∧
    (State.reset.fb.setPixel 0 0 true).pixel 0 0 = true ∧ coverBit 0#8 0#8 [0x80#8] 0 0 = true ∧
    (∀ px py, State.reset.fb.pixel px py = true → coverBit 0#8 0#8 [0x80#8] px py = false) ∧
    ([] = (List.range (0#4 : Nibble).toNat).map fun r => State.reset.mem.read (State.reset.indexAddr r)) := by
  refine ⟨by decide, by decide, by decide, ?_, by decide⟩
  intro px py h
  simp [State.reset, Framebuffer.pixel] at h
theorem witness_SpriteVisitsNoPixelTwice : spriteCol 0xFF#8 7 = spriteCol 0xFF#8 7 ∧ spriteRow 0xFF#8 14 = spriteRow 0xFF#8 14 ∧
    7 < 8 ∧ 14 < 15 := by decide
theorem witness_DrawingTwiceRestoresFramebuffer : (0#4 : Reg) ≠ 0xF#4 ∧ (0xE#4 : Reg) ≠ 0xF#4 := by decide
theorem witness_KeySkipsFollowKeypad : State.reset.params.keyIndexPolicy = .mask ∧
    (3#4 : Reg).toNat = ((State.reset.setV 1#4 0x13#8).getV 1#4).toNat % 16 ∧
    ((strictKeys State.reset).setV 1#4 0x0F#8).params.keyIndexPolicy = .fault ∧
    (((strictKeys State.reset).setV 1#4 0x0F#8).getV 1#4).toNat ≤ 0xF ∧
    (0xF#4 : Reg).toNat = (((strictKeys State.reset).setV 1#4 0x0F#8).getV 1#4).toNat % 16 := by decide
theorem witness_KeyIndexFaultsUnderFaultPolicy : (strictKeys (State.reset.setV 1#4 0x10#8)).params.keyIndexPolicy = .fault ∧
    0xF < ((strictKeys (State.reset.setV 1#4 0x10#8)).getV 1#4).toNat := by decide
/-- Key 3 below key 7 (W10), key 0, and no key at all. -/
theorem witness_WaitPollLatchesLowestKey :
    (let s := setKey 7#4 true (setKey 3#4 true (State.reset.setWait (.waiting 5#4)));
      s.fault = .none ∧ s.wait = .waiting 5#4 ∧ s.key 3#4 = true ∧ ∀ j : Reg, j.toNat < (3#4 : Reg).toNat → s.key j = false) ∧
    (let s := setKey 0#4 true (State.reset.setWait (.waiting 0xF#4));
      s.fault = .none ∧ s.wait = .waiting 0xF#4 ∧ s.key 0#4 = true ∧ ∀ j : Reg, j.toNat < (0#4 : Reg).toNat → s.key j = false) ∧
    (let s := State.reset.setWait (.waiting 0#4); s.fault = .none ∧ s.wait = .waiting 0#4 ∧ ∀ k, s.key k = false) := by decide
/-- An instruction at 0x200 and one at the last fetchable address 0xFFE. -/
theorem witness_StepExecutesDecodedInstruction :
    (let s := at200 0x730A; s.fault = .none ∧ s.wait = .idle ∧ s.pc.toNat + 1 < 4096 ∧
      0x730A#16 = ((s.mem.read s.pc.toNat).setWidth 16 <<< 8) ||| (s.mem.read (s.pc.toNat + 1)).setWidth 16 ∧
      decodeWord 0x730A#16 = .ok (.addImm 3#4 0x0A#8)) ∧
    (let s := (State.reset.setPc 0xFFE#12).withFetchWord 16 0x6012; s.fault = .none ∧ s.wait = .idle ∧ s.pc.toNat + 1 < 4096 ∧
      0x6012#16 = ((s.mem.read s.pc.toNat).setWidth 16 <<< 8) ||| (s.mem.read (s.pc.toNat + 1)).setWidth 16 ∧
      decodeWord 0x6012#16 = .ok (.ldImm 0#4 0x12#8)) := by decide
theorem witness_UnknownOpcodeOnlyAdvancesPc : (at200 0x5121).Running ∧
    ∀ r ∈ opcodeTable, (at200 0x5121).fetchWord &&& r.mask ≠ r.pattern := by decide +kernel
theorem witness_HaltedAndBlockedCyclesChangeNothing : (State.reset.raise .stackOverflow).fault ≠ .none ∧
    (State.reset.setPc 0xFFF#12).fault = .none ∧ (State.reset.setPc 0xFFF#12).wait = .idle ∧
    4096 ≤ (State.reset.setPc 0xFFF#12).pc.toNat + 1 := by decide
theorem witness_CycleReportsExecutedInstruction : (at200 0x730A).Executes (.addImm 3#4 0x0A#8) := by decide
theorem witness_StackOverflowIsCompleteAndHalts : (fullStack (at200 0x2500)).Executes (.call 0x500#12) ∧
    (fullStack (at200 0x2500)).stack.length = 16 := by decide
/-- Every statement about `step s = next t` has such states: running, waiting, blocked and halted ones. -/
theorem witness_step_next : (∃ t, step (at200 0xF215) = .next t) ∧ (∃ t, step (State.reset.setWait (.waiting 0xF#4)) = .next t) ∧
    (∃ t, step (State.reset.setPc 0xFFF#12) = .next t) ∧ (∃ t, step (State.reset.raise .stackOverflow) = .next t) :=
  ⟨⟨_, rfl⟩, ⟨_, rfl⟩, ⟨_, rfl⟩, ⟨_, rfl⟩⟩
theorem witness_CyclesLeaveTimersAlone : (stepped ((at200 0xF215).setV 2#4 0x10#8)).map (fun t => t.delayTimer) = some 0x10#8 := by decide
theorem witness_OnlyFlagInstructionsChangeVf : ∃ t, step (at200 0x6F01) = .next t ∧ t.getV 0xF#4 ≠ (at200 0x6F01).getV 0xF#4 :=
  ⟨_, rfl, by decide⟩
theorem witness_FaultsAndWaitsHaveOneCause :
    (∃ t, step (fullStack (at200 0x2500)) = .next t ∧ t.fault ≠ (fullStack (at200 0x2500)).fault) ∧
    (∃ t, step (strictKeys ((at200 0xE19E).setV 1#4 0x10#8)) = .next t ∧ t.fault ≠ FaultState.none) ∧
    (∃ t, step (at200 0xF30A) = .next t ∧ t.wait = .waiting 3#4) :=
  ⟨⟨_, rfl, by decide⟩, ⟨_, rfl, by decide⟩, ⟨_, rfl, rfl⟩⟩
theorem witness_DrawMattersOnlyToRnd : ∀ x kk, ¬ (at200 0x730A).Executes (.rnd x kk) := by
  intro x kk h
  have hd : decodeWord (at200 0x730A).fetchWord = .ok (.addImm 3#4 0x0A#8) := by decide
  rw [h.2] at hd
  cases hd
theorem witness_SoftResetValues : State.reset.romBytes.length ≤ 3584 ∧
    (State.reset.retain (List.replicate 3584 0x12#8)).romBytes.length ≤ 3584 ∧
    0 < (State.reset.retain [0x12#8]).romBytes.length ∧ 0x200 + (State.reset.retain [0x12#8]).romBytes.length ≤ 0xFFF :=
  ⟨by decide, Nat.le_of_eq List.length_replicate, by decide, by decide⟩
/-- W11 on both sides of the bound, and the empty ROM of V96. -/
theorem witness_LoadRomLoadsOrRejects : 4096 < 0x200 + (List.replicate 3585 0#8).length ∧
    0x200 + (List.replicate 3584 0#8).length ≤ 4096 ∧ 0x200 + ([] : List Byte).length ≤ 4096 := by
  rw [List.length_replicate, List.length_replicate]; decide
theorem witness_HardResetValues : (0 < 4096 ∧ 0 < 0x050) ∧ (0xFFF < 4096 ∧ 0x0A0 ≤ 0xFFF) := by decide
theorem witness_HaltEndsOnlyByResetOrRestore : (State.reset.raise .stackOverflow).fault ≠ .none ∧
    ∃ q, HostOp.apply plainCodec (.reset false) (State.reset.raise .stackOverflow) = .next q ∧
      q.2.fault ≠ (State.reset.raise .stackOverflow).fault := ⟨by decide, _, rfl, by decide⟩
theorem witness_SnapshotLayout : State.reset.Inv ∧ State.reset.wait = .idle ∧ (State.reset.setWait (.waiting 0xF#4)).Inv ∧
    (State.reset.setWait (.waiting 0xF#4)).wait = .waiting 0xF#4 ∧ (fullStack State.reset).Inv := by decide
theorem witness_SnapshotRoundTrip : plainCodec.Lawful ∧ State.reset.Inv := ⟨fun _ => rfl, by decide⟩
/-- A state with a ROM and a stack entry. -/
def saved : State := (State.reset.retain [0x12#8]).push 0x206#12
theorem witness_valid_snapshot : snapshotValid (encodeSnapshot saved) = true := by
  have hb : ∀ off, off < 4423 → byteAt (encodeSnapshot saved) off = (snapshotByte saved off).toNat :=
    fun off h => byteAt_encodeSnapshot saved h
  have ht : (encodeSnapshot saved).take 4 = (List.range 4).map (snapshotByte saved) := by
    rw [encodeSnapshot, ← List.map_take, List.take_range]; rfl
  rw [snapshotValid_iff, length_encodeSnapshot, ht]
  simp (disch := omega) only [wordAt, hb]
  refine ⟨by decide, by decide, by decide, by decide, by decide, by decide, ?_, by decide⟩
  intro k hk
  rw [hb _ (by omega), hb _ (by omega)]
  revert k; decide
theorem witness_DecodeAcceptsExactlyEncodings : ∃ t, decodeSnapshot State.reset (encodeSnapshot saved) = some t :=
  ⟨_, if_pos witness_valid_snapshot⟩
theorem witness_RestoreIsAtomic : restore plainCodec [] State.reset = (.invalidSnapshot, State.reset) ∧
    (∃ t, restore plainCodec (encodeSnapshot saved) State.reset = (.ok, t)) ∧
    plainCodec.decompress [] = some [] ∧ ([] : List Byte).length < 4422 ∧
    ({ compress := id, decompress := fun _ => none } : Codec).decompress [] = none := by
  refine ⟨by decide, ?_, rfl, by decide, rfl⟩
  obtain ⟨t, ht⟩ := witness_DecodeAcceptsExactlyEncodings
  refine ⟨t, ?_⟩
  have hd : ∀ b, plainCodec.decompress b = some b := fun _ => rfl
  rw [restore, hd, Option.bind_some, ht]
/-- Snapshots of the right length with another magic (V101) or another version (V102). -/
theorem witness_RestoreIsAtomic_header : (List.replicate 4422 0#8).take 4 ≠ [0x43#8, 0x38#8, 0x56#8, 0x4D#8] ∧
    ([0x43#8, 0x38#8, 0x56#8, 0x4D#8, 2#8] : List Byte).getD 4 0#8 ≠ 1#8 := by
  rw [List.take_replicate]; decide
theorem witness_EveryStepKeepsInvariant : (at200 0x2500).Inv ∧ ∃ t, step (at200 0x2500) = .next t := ⟨by decide, _, rfl⟩
theorem witness_EveryHostOperationKeepsInvariant : State.reset.Inv ∧
    (∃ q, HostOp.apply plainCodec (.loadRom [0x12#8]) State.reset = .next q) ∧
    ∃ t, runHost plainCodec [.loadRom [0x12#8], .tickTimers] (construct defaultParams false false) = .next t :=
  ⟨by decide, ⟨_, rfl⟩, _, rfl⟩

end Sys2Proof.Tests
end

section
/-! The decoder and the encoder are inverse to each other (R80 to R87): the word of every instruction decodes to it, and a
word that decodes is the word of what it decodes to. -/

namespace Sys2Proof.Proofs.Encoding

/-! ### Every operand fits its field -/

@[simp] theorem admits_reg (x : Reg) : OperandKind.reg.admits x.toNat = true := decide_eq_true x.isLt

@[simp] theorem admits_addr (nnn : Addr) : OperandKind.addr.admits nnn.toNat = true := decide_eq_true nnn.isLt

@[simp] theorem admits_byte (kk : Byte) : OperandKind.byte.admits kk.toNat = true := decide_eq_true kk.isLt

@[simp] theorem admits_nibble (n : Nibble) : OperandKind.nibble.admits n.toNat = true := decide_eq_true n.isLt

theorem instr_wellFormed (i : Instr) : i.wellFormed = true := by
  cases i <;> simp [Instr.wellFormed, Instr.operands]

/-! ### Decode after encode -/

theorem decodeWord_of_family8 {op : Word} (h : opFamily op = 0x8#4) : decodeWord op = decodeFamily8 op := by
  rw [decodeWord, h]; rfl

theorem decodeWord_of_familyE {op : Word} (h : opFamily op = 0xE#4) : decodeWord op = decodeFamilyE op := by
  rw [decodeWord, h]; rfl

theorem decodeWord_of_familyF {op : Word} (h : opFamily op = 0xF#4) : decodeWord op = decodeFamilyF op := by
  rw [decodeWord, h]; rfl

/-- The word of an instruction decodes to it. In the families 0x8, 0xE and 0xF the low digits select the operation, so there
the family's own decoder reads them; in the others the family selects it (R84). -/
theorem decodeWord_encode (i : Instr) : decodeWord (encode i) = .ok i := by
  cases i
  case cls | ret => decide
  case ldReg x y | orReg x y | andReg x y | xorReg x y | addReg x y | subReg x y | shr x y | subn x y | shl x y =>
    exact (decodeWord_of_family8 (opFamily_word_n _ x y _)).trans (by simp [decodeFamily8])
  case skp x | sknp x =>
    exact (decodeWord_of_familyE (opFamily_word_kk _ x _)).trans (by simp [decodeFamilyE])
  case ldVxDT x | ldVxK x | ldDTVx x | ldSTVx x | addI x | ldF x | ldB x | storeRegs x | loadRegs x =>
    exact (decodeWord_of_familyF (opFamily_word_kk _ x _)).trans (by simp [decodeFamilyF])
  case jp | call | ldI | jpV0 | seImm | sneImm | ldImm | addImm | rnd | seReg | sneReg | drw => simp [encode, decodeWord]

/-- The decoder reads a word back from its two bytes and leaves the bytes after them (R62, R80). -/
theorem decode_bytesOfWord_append (op : Word) (rest : List Byte) :
    decode (bytesOfWord op ++ rest) = (decodeWord op).map fun i => (i, rest) := by
  simp only [bytesOfWord, List.cons_append, List.nil_append, decode, wordOfBytes_bytesOfWord]

/-! ### Encode after decode -/

section
variable {op : Word} {i : Instr} {f : BitVec 4}

theorem word_nnn_of_opFamily (hf : (opFamily op).toNat = f.toNat) : (f ++ opNNN op : Word) = op := by
  rw [← BitVec.eq_of_toNat_eq hf, ← word_eq_nnn]

theorem word_kk_of_opFamily (hf : (opFamily op).toNat = f.toNat) : (f ++ opX op ++ opKK op : Word) = op := by
  rw [← BitVec.eq_of_toNat_eq hf, ← word_eq_kk]

theorem word_n_of_opFamily (hf : (opFamily op).toNat = f.toNat) : (f ++ opX op ++ opY op ++ opN op : Word) = op := by
  rw [← BitVec.eq_of_toNat_eq hf, ← word_eq_n]

/-- In family 0x8 the decoder keeps x and y, and the operation stands for the low nibble. -/
theorem encode_of_decodeFamily8 (h : decodeFamily8 op = .ok i) :
    encode i = (0x8#4 ++ opX op ++ opY op ++ opN op : Word) := by
  unfold decodeFamily8 at h
  split at h <;> cases h
  all_goals next hn => simp only [encode, ← BitVec.toNat_inj, toNat_word_n, hn, BitVec.toNat_ofNat]

/-- In family 0xE the decoder keeps x, and the operation stands for the low byte. -/
theorem encode_of_decodeFamilyE (h : decodeFamilyE op = .ok i) : encode i = (0xE#4 ++ opX op ++ opKK op : Word) := by
  unfold decodeFamilyE at h
  split at h <;> cases h
  all_goals next hk => simp only [encode, ← BitVec.toNat_inj, toNat_word_kk, hk, BitVec.toNat_ofNat]

/-- In family 0xF the decoder keeps x, and the operation stands for the low byte. -/
theorem encode_of_decodeFamilyF (h : decodeFamilyF op = .ok i) : encode i = (0xF#4 ++ opX op ++ opKK op : Word) := by
  unfold decodeFamilyF at h
  split at h <;> cases h
  all_goals next hk => simp only [encode, ← BitVec.toNat_inj, toNat_word_kk, hk, BitVec.toNat_ofNat]

/-- The cases are the families of R84 in its order: `h_1` is family 0x0, `h_16` is family 0xF, and `h_17`
is rejected. -/
theorem encode_of_decodeWord (h : decodeWord op = .ok i) : encode i = op := by
  unfold decodeWord at h
  split at h
  case h_1 =>
    split_ifs at h with hcls hret <;> cases h
    · exact hcls.symm
    · exact hret.symm
  case h_6 hf | h_10 hf =>
    split_ifs at h with hn; cases h
    rw [encode, ← hn]; exact word_n_of_opFamily hf
  case h_9 hf => exact (encode_of_decodeFamily8 h).trans (word_n_of_opFamily hf)
  case h_15 hf => exact (encode_of_decodeFamilyE h).trans (word_kk_of_opFamily hf)
  case h_16 hf => exact (encode_of_decodeFamilyF h).trans (word_kk_of_opFamily hf)
  case h_2 hf | h_3 hf | h_11 hf | h_12 hf => cases h; exact word_nnn_of_opFamily hf
  case h_4 hf | h_5 hf | h_7 hf | h_8 hf | h_13 hf => cases h; exact word_kk_of_opFamily hf
  case h_14 hf => cases h; exact word_n_of_opFamily hf
  case h_17 => cases h

end

/-- A word decodes to an instruction exactly when it is the instruction's word. -/
theorem decodeWord_eq_ok_iff {op : Word} {i : Instr} : decodeWord op = .ok i ↔ encode i = op :=
  ⟨encode_of_decodeWord, fun h => h ▸ decodeWord_encode i⟩

/-! ### The obligations -/

/-- Settles O2, from `decodeWord_encode` through the two bytes of the word. -/
theorem decodeOfEncodeIsIdentity : Obligations.DecodeOfEncodeIsIdentity := by
  intro i rest
  refine ⟨instr_wellFormed i, ?_⟩
  rw [encodeBytes, decode_bytesOfWord_append, decodeWord_encode]; rfl

/-- Settles O3, family by family of the decoder's map. -/
theorem encodeOfDecodeIsIdentity : Obligations.EncodeOfDecodeIsIdentity :=
  fun _ _ h => encode_of_decodeWord h

end Sys2Proof.Proofs.Encoding
end

section
/-! The cycle (40_cycle.md): a running core executes the big-endian word at PC, and of all steps only Fx15 and Fx18 write a
timer. -/

namespace Sys2Proof.Proofs.Cycle

open Sys2Proof.Machine

/-! ### The fetched word (R62, R104) -/

theorem wordOfBytes_eq_shiftLeft_or (hi lo : Byte) : wordOfBytes hi lo = (hi.setWidth 16 <<< 8) ||| lo.setWidth 16 := by
  rw [wordOfBytes, BitVec.append_def, BitVec.shiftLeftZeroExtend_eq, BitVec.setWidth'_eq]

theorem running_of_pc_lt {s : State} (hf : s.fault = .none) (hw : s.wait = .idle) (hp : s.pc.toNat + 1 < 4096) :
    s.Running :=
  ⟨hf, hw, fun h => absurd (h ▸ hp) (by decide)⟩

/-! ### The timers (R109) -/

theorem poll_timers (s : State) (r : Reg) :
    (s.poll r).delayTimer = s.delayTimer ∧ (s.poll r).soundTimer = s.soundTimer := by
  obtain h | ⟨k, h⟩ := s.poll_cases r <;> simp [h]

theorem skipOnKey_timers (s : State) (x : Reg) (pressed : Bool) :
    (s.skipOnKey x pressed).delayTimer = s.delayTimer ∧ (s.skipOnKey x pressed).soundTimer = s.soundTimer := by
  obtain ⟨c, h⟩ | ⟨h, -, -⟩ := s.skipOnKey_cases x pressed <;> simp [h]

theorem afterLoads_timers (s : State) (n : Nat) :
    (s.afterLoads n).delayTimer = s.delayTimer ∧ (s.afterLoads n).soundTimer = s.soundTimer := by
  obtain ⟨w, h⟩ := s.afterLoads_eq n
  simp [h]

/-- What an instruction does to the timers: Fx15 and Fx18 set one of them and do nothing else (R211, R212); every other
instruction leaves both. -/
theorem exec_timers {i : Instr} {s t : State} (h : exec i s = .next t) :
    (∃ x, i = .ldDTVx x ∧ t = s.setDelay (s.getV x)) ∨
    (∃ x, i = .ldSTVx x ∧ t = s.setSound (s.getV x)) ∨
    (t.delayTimer = s.delayTimer ∧ t.soundTimer = s.soundTimer) := by
  cases i
  case ldDTVx x => cases h; exact .inl ⟨x, rfl, rfl⟩
  case ldSTVx x => cases h; exact .inr (.inl ⟨x, rfl, rfl⟩)
  all_goals refine .inr (.inr ?_)
  case ret => rw [exec, execRet] at h; split at h <;> cases h <;> exact ⟨rfl, rfl⟩
  case call => rw [exec, execCall] at h; split at h <;> cases h <;> exact ⟨rfl, rfl⟩
  case seImm | sneImm | seReg | sneReg => cases h; simp
  case skp x | sknp x => cases h; exact skipOnKey_timers s x _
  case storeRegs => cases h; simp
  case loadRegs x => cases h; simpa using afterLoads_timers s (x.toNat + 1)
  all_goals cases h; exact ⟨rfl, rfl⟩

/-! ### The obligations -/

/-- Settles O34: the guard of R103 does not hold below 0xFFF, so `step_running` dispatches the word of `fetchWord`. -/
theorem stepExecutesDecodedInstruction : Obligations.StepExecutesDecodedInstruction := by
  rintro s _ i hf hw hp rfl hdec
  refine ⟨s.pc + 2#12, BitVec.toNat_add s.pc 2#12, ?_⟩
  rw [← wordOfBytes_eq_shiftLeft_or] at hdec
  exact (step_running (running_of_pc_lt hf hw hp)).trans (State.dispatch_ok hdec)

/-- Settles O40: of the cases of `step_cases` only an executed instruction can write a timer, and `exec_timers` says which
ones do. -/
theorem cyclesLeaveTimersAlone : Obligations.CyclesLeaveTimersAlone := by
  intro s t h
  obtain ⟨-, rfl⟩ | ⟨r, -, -, rfl⟩ | ⟨-, -, rfl⟩ | ⟨hrun, i, hdec, hexec⟩ := step_cases h
  · exact ⟨.inl rfl, .inl rfl⟩
  · exact (poll_timers s r).imp .inl .inl
  · exact ⟨.inl rfl, .inl rfl⟩
  · obtain ⟨x, rfl, rfl⟩ | ⟨x, rfl, rfl⟩ | hsame := exec_timers hexec
    · exact ⟨.inr ⟨x, ⟨hrun, hdec⟩, rfl⟩, .inl rfl⟩
    · exact ⟨.inl rfl, .inr ⟨x, ⟨hrun, hdec⟩, rfl⟩⟩
    · exact hsame.imp .inl .inl

end Sys2Proof.Proofs.Cycle
end

section
/-! Control flow (41_control_flow.md): RET and the two jumps write PC, and RET also takes the top entry off the stack. -/

namespace Sys2Proof.Proofs.ControlFlow

open Sys2Proof.Machine Sys2Proof.Proofs.Encoding

/-! ### The words of the rows (R85) -/

theorem decodeWord_ret_of_and {op : Word} (h : op &&& 0xFFFF#16 = 0x00EE#16) : decodeWord op = .ok .ret := by
  have hop : op = 0x00EE#16 := BitVec.and_allOnes.symm.trans h
  exact decodeWord_eq_ok_iff.2 hop.symm

/-- A word of a row with the mask 0xF000 is the row's family followed by nnn. -/
theorem word_nnn_of_and_F000 {op : Word} {f : BitVec 4} (h : op &&& 0xF000#16 = (f ++ 0#12 : Word)) :
    (f ++ opNNN op : Word) = op :=
  word_nnn_of_opFamily (congrArg BitVec.toNat ((and_F000_iff f op).1 h))

/-! ### The meanings (R121, R122, R128) -/

theorem exec_ret_of_stack_append {s : State} {below : List Addr} {a : Addr} (h : s.stack = below ++ [a]) :
    exec .ret s = .next (s.dropTop.setPc a) := by
  have htop : s.top? = some a := by rw [State.top?, h, List.getLast?_concat]
  rw [exec, execRet, htop]

theorem exec_ret_of_stack_nil {s : State} (h : s.stack = []) : exec .ret s = .next s := by
  have htop : s.top? = none := by rw [State.top?, h, List.getLast?_nil]
  rw [exec, execRet, htop]

theorem exec_jp (nnn : Addr) (s : State) : exec (.jp nnn) s = .next (s.setPc nnn) := rfl

theorem exec_jpV0 (nnn : Addr) (s : State) :
    exec (.jpV0 nnn) s = .next (s.setPc (nnn + (s.getV reg0).setWidth 12)) := rfl

/-- An address plus a byte wraps at 4096 (D4). -/
theorem toNat_add_setWidth_byte (a : Addr) (b : Byte) : (a + b.setWidth 12).toNat = (a.toNat + b.toNat) % 4096 := by
  rw [BitVec.toNat_add, BitVec.toNat_setWidth_of_le (by decide)]

theorem frame_setPc (s : State) (a : Addr) : Frame { pc := true } s (s.setPc a) :=
  frame_of_parts _ _ _ (by simp)

theorem frame_dropTop_setPc (s : State) (a : Addr) : Frame { pc := true, stack := true } s (s.dropTop.setPc a) :=
  frame_of_parts _ _ _ (by simp)

/-! ### The obligations -/

/-- Settles O6: the stack ends in a, which RET pops into PC, or it is empty. -/
theorem retPopsOrDoesNothing : Obligations.RetPopsOrDoesNothing := by
  refine ⟨fun _ => decodeWord_ret_of_and, fun s below a h => ?_, fun _ => exec_ret_of_stack_nil⟩
  have hstack : (s.dropTop.setPc a).stack = below := by simp [h]
  exact ⟨_, exec_ret_of_stack_append h, s.dropTop.setPc_pc a, hstack, frame_dropTop_setPc s a⟩

/-- Settles O7: both jumps are one `setPc`, and the sum of JP V0 wraps at the 12 bits of PC. -/
theorem jumpsSetPc : Obligations.JumpsSetPc := by
  refine ⟨fun _ h => decodeWord_eq_ok_iff.2 (word_nnn_of_and_F000 h),
    fun _ h => decodeWord_eq_ok_iff.2 (word_nnn_of_and_F000 h), fun nnn s => ?_, fun nnn s => ?_⟩
  · exact ⟨_, exec_jp nnn s, s.setPc_pc nnn, frame_setPc s nnn⟩
  · exact ⟨_, exec_jpV0 nnn s, toNat_add_setWidth_byte nnn (s.getV reg0), frame_setPc s _⟩

end Sys2Proof.Proofs.ControlFlow
end

section
/-! Register loads and ALU (42_register_alu.md): the instructions that write Vx alone are one `setV`, so what they leave in Vx
and their frame are said once. -/

namespace Sys2Proof.Proofs.RegisterAlu

open Sys2Proof.Machine Sys2Proof.Proofs.Encoding

/-! ### The words of the rows (R85) -/

/-- A word of a row with the mask 0xF000 is the row's family followed by x and kk. -/
theorem word_kk_of_and_F000 {op : Word} {f : BitVec 4} (h : op &&& 0xF000#16 = (f ++ 0#12 : Word)) :
    (f ++ opX op ++ opKK op : Word) = op :=
  word_kk_of_opFamily (congrArg BitVec.toNat ((and_F000_iff f op).1 h))

/-- A word of a row with the mask 0xF00F is the row's family followed by x, y and the row's low nibble. -/
theorem word_n_of_and_F00F {op : Word} {f n : BitVec 4} (h : op &&& 0xF00F#16 = (f ++ 0#4 ++ 0#4 ++ n : Word)) :
    (f ++ opX op ++ opY op ++ n : Word) = op := by
  obtain ⟨hf, hn⟩ := (and_F00F_iff f n op).1 h
  rw [← hf, ← hn, ← word_eq_n]

/-! ### The meanings (R141 to R146) -/

theorem exec_ldImm (x : Reg) (kk : Byte) (s : State) : exec (.ldImm x kk) s = .next (s.setV x kk) := rfl

theorem exec_addImm (x : Reg) (kk : Byte) (s : State) :
    exec (.addImm x kk) s = .next (s.setV x (s.getV x + kk)) := rfl

theorem exec_ldReg (x y : Reg) (s : State) : exec (.ldReg x y) s = .next (s.setV x (s.getV y)) := rfl

theorem exec_orReg (x y : Reg) (s : State) :
    exec (.orReg x y) s = .next (s.setV x (s.getV x ||| s.getV y)) := rfl

theorem exec_andReg (x y : Reg) (s : State) :
    exec (.andReg x y) s = .next (s.setV x (s.getV x &&& s.getV y)) := rfl

theorem exec_xorReg (x y : Reg) (s : State) :
    exec (.xorReg x y) s = .next (s.setV x (s.getV x ^^^ s.getV y)) := rfl

/-! ### One register written -/

theorem getV_setV_self (s : State) (x : Reg) (b : Byte) : (s.setV x b).getV x = b := by
  rw [State.getV_setV, if_pos rfl]

theorem frame_setV (s : State) (x : Reg) (b : Byte) : Frame { regs := [x] } s (s.setV x b) :=
  frame_of_parts _ _ _ (by simp +contextual)

/-- An instruction that answers one `setV` leaves the byte in its register and changes nothing else. -/
theorem writes_only_of_exec_eq_setV {i : Instr} {s : State} {x : Reg} {b : Byte} (h : exec i s = .next (s.setV x b)) :
    ∃ t, exec i s = .next t ∧ t.getV x = b ∧ Frame { regs := [x] } s t :=
  ⟨_, h, getV_setV_self s x b, frame_setV s x b⟩

/-! ### The obligations -/

/-- Settles O12: each is one `setV`, and the sum wraps at the 8 bits of a register. -/
theorem immediateLoadAndAdd : Obligations.ImmediateLoadAndAdd := by
  refine ⟨fun _ h => decodeWord_eq_ok_iff.2 (word_kk_of_and_F000 h),
    fun _ h => decodeWord_eq_ok_iff.2 (word_kk_of_and_F000 h),
    fun x kk s => writes_only_of_exec_eq_setV (exec_ldImm x kk s), fun x kk s => ?_⟩
  obtain ⟨t, hexec, hvx, hframe⟩ := writes_only_of_exec_eq_setV (exec_addImm x kk s)
  have hsum : (t.getV x).toNat = ((s.getV x).toNat + kk.toNat) % 256 := by rw [hvx, BitVec.toNat_add]
  exact ⟨t, hexec, hsum, hframe⟩

/-- Settles O13: each is one `setV` of Vx, so VF is in the frame unless it is Vx. -/
theorem copyAndLogicWriteOnlyVx : Obligations.CopyAndLogicWriteOnlyVx :=
  ⟨fun _ h => decodeWord_eq_ok_iff.2 (word_n_of_and_F00F h), fun _ h => decodeWord_eq_ok_iff.2 (word_n_of_and_F00F h),
    fun _ h => decodeWord_eq_ok_iff.2 (word_n_of_and_F00F h), fun _ h => decodeWord_eq_ok_iff.2 (word_n_of_and_F00F h),
    fun x y s => writes_only_of_exec_eq_setV (exec_ldReg x y s),
    fun x y s => writes_only_of_exec_eq_setV (exec_orReg x y s),
    fun x y s => writes_only_of_exec_eq_setV (exec_andReg x y s),
    fun x y s => writes_only_of_exec_eq_setV (exec_xorReg x y s)⟩

end Sys2Proof.Proofs.RegisterAlu
end

section
/-! Index register and memory (43_index_memory.md): three instructions are one `setI`, and BCD is three writes to consecutive
addresses, which the wrap at 4096 keeps apart. -/

namespace Sys2Proof.Proofs.IndexMemory

open Sys2Proof.Machine Sys2Proof.Proofs.Encoding
open Sys2Proof.Proofs.ControlFlow (word_nnn_of_and_F000 toNat_add_setWidth_byte)

/-! ### The words of the rows (R85) -/

/-- A word of a row with the mask 0xF0FF is the row's family followed by x and the row's low byte. -/
theorem word_kk_of_and_F0FF {op : Word} {f : BitVec 4} {kk : Byte} (h : op &&& 0xF0FF#16 = (f ++ 0#4 ++ kk : Word)) :
    (f ++ opX op ++ kk : Word) = op := by
  obtain ⟨hf, hkk⟩ := (and_F0FF_iff f kk op).1 h
  rw [← hf, ← hkk, ← word_eq_kk]

/-! ### The meanings (R170 to R173) -/

theorem exec_ldI (nnn : Addr) (s : State) : exec (.ldI nnn) s = .next (s.setI nnn) := rfl

theorem exec_addI (x : Reg) (s : State) : exec (.addI x) s = .next (s.setI (s.i + (s.getV x).setWidth 12)) := rfl

theorem exec_ldF (x : Reg) (s : State) : exec (.ldF x) s = .next (s.setI (glyphAddr (s.getV x))) := rfl

theorem exec_ldB (x : Reg) (s : State) :
    exec (.ldB x) s = .next (s.setMem (((s.mem.write (s.indexAddr 0) (hundreds (s.getV x))).write
      (s.indexAddr 1) (tens (s.getV x))).write (s.indexAddr 2) (ones (s.getV x)))) := rfl

/-! ### The index register written -/

/-- The last glyph begins at 0x09B, so the glyph address does not wrap (R172). -/
theorem glyphAddr_toNat (b : Byte) : (glyphAddr b).toNat = 0x050 + b.toNat % 16 * 5 := by
  have hnibble : (b &&& 0x0F#8).toNat = b.toNat % 16 := Nat.and_two_pow_sub_one_eq_mod b.toNat 4
  rw [glyphAddr, BitVec.toNat_add, BitVec.toNat_mul, BitVec.toNat_setWidth_of_le (by decide), hnibble]
  simp only [BitVec.toNat_ofNat]
  omega

theorem frame_setI (s : State) (a : Addr) : Frame { i := true } s (s.setI a) :=
  frame_of_parts _ _ _ (by simp)

/-! ### Memory written -/

/-- A store at I + k, seen from I + j: two of at most 16 consecutive addresses are never the same cell. -/
theorem read_write_indexAddr (s : State) (m : Memory) {j k : Nat} (hj : j < 16) (hk : k < 16) (w : Byte) :
    (m.write (s.indexAddr k) w).read (s.indexAddr j) = if j = k then w else m.read (s.indexAddr j) := by
  rw [Memory.read_write]
  exact if_congr ⟨s.indexAddr_mod_inj hj hk, fun h => h ▸ rfl⟩ rfl rfl

theorem frame_setMem {s : State} {m : Memory} {as : List Nat}
    (h : ∀ a, (∀ b ∈ as, a % 4096 ≠ b % 4096) → m.read a = s.mem.read a) : Frame { mem := as } s (s.setMem m) :=
  frame_of_parts _ _ _ (by simpa using h)

/-! ### The obligations -/

/-- Settles O19: each is one `setI`; the sum wraps at the 12 bits of I, and the glyph address stays below them. -/
theorem indexRegisterWrites : Obligations.IndexRegisterWrites := by
  refine ⟨fun _ h => decodeWord_eq_ok_iff.2 (word_nnn_of_and_F000 h),
    fun _ h => decodeWord_eq_ok_iff.2 (word_kk_of_and_F0FF h),
    fun _ h => decodeWord_eq_ok_iff.2 (word_kk_of_and_F0FF h), fun nnn s => ?_, fun x s => ?_, fun x s => ?_⟩
  · exact ⟨_, exec_ldI nnn s, s.setI_i nnn, frame_setI s nnn⟩
  · exact ⟨_, exec_addI x s, toNat_add_setWidth_byte s.i (s.getV x), frame_setI s _⟩
  · exact ⟨_, exec_ldF x s, glyphAddr_toNat (s.getV x), frame_setI s _⟩

/-- Settles O20: no digit's store reaches another digit's cell, and no store reaches a cell outside the three. -/
theorem bcdStoresThreeDigits : Obligations.BcdStoresThreeDigits := by
  refine ⟨fun _ h => decodeWord_eq_ok_iff.2 (word_kk_of_and_F0FF h), fun x s => ⟨_, exec_ldB x s, ?_, ?_, ?_, ?_⟩⟩
  · simp [read_write_indexAddr, hundreds_toNat]
  · simp [read_write_indexAddr, tens_toNat]
  · simp [read_write_indexAddr, ones_toNat]
  · refine frame_setMem fun a ha => ?_
    simp only [List.forall_mem_cons] at ha
    obtain ⟨h0, h1, h2, -⟩ := ha
    rw [Memory.read_write, if_neg h2, Memory.read_write, if_neg h1, Memory.read_write, if_neg h0]

end Sys2Proof.Proofs.IndexMemory
end

section
/-! Display (44_display.md): CLS replaces the framebuffer by the clear one and sets the draw flag. -/

namespace Sys2Proof.Proofs.Display

open Sys2Proof.Machine Sys2Proof.Proofs.Encoding

/-! ### The word of the row (R85) -/

theorem decodeWord_cls_of_and {op : Word} (h : op &&& 0xFFFF#16 = 0x00E0#16) : decodeWord op = .ok .cls := by
  have hop : op = 0x00E0#16 := BitVec.and_allOnes.symm.trans h
  exact decodeWord_eq_ok_iff.2 hop.symm

/-! ### The meaning (R192) -/

theorem exec_cls (s : State) : exec .cls s = .next (s.setDisplay Framebuffer.clear) := rfl

theorem frame_setDisplay (s : State) (f : Framebuffer) : Frame { display := true } s (s.setDisplay f) :=
  frame_of_parts _ _ _ (by simp)

/-! ### The obligations -/

/-- Settles O25: CLS is one `setDisplay` of the clear framebuffer. -/
theorem clsClearsDisplay : Obligations.ClsClearsDisplay :=
  ⟨fun _ h => decodeWord_cls_of_and h, fun s =>
    ⟨_, exec_cls s, Framebuffer.pixel_clear, s.setDisplay_drawFlag _, frame_setDisplay s _⟩⟩

end Sys2Proof.Proofs.Display
end

section
/-! Timers and keypad (45_timers_input.md): each timer transfer writes one register or one timer, and Fx0A writes only the
wait state. -/

namespace Sys2Proof.Proofs.TimersInput

open Sys2Proof.Machine Sys2Proof.Proofs.Encoding
open Sys2Proof.Proofs.RegisterAlu (writes_only_of_exec_eq_setV)
open Sys2Proof.Proofs.IndexMemory (word_kk_of_and_F0FF)

/-! ### The meanings (R210 to R212, R215) -/

theorem exec_ldVxDT (x : Reg) (s : State) : exec (.ldVxDT x) s = .next (s.setV x s.delayTimer) := rfl

theorem exec_ldDTVx (x : Reg) (s : State) : exec (.ldDTVx x) s = .next (s.setDelay (s.getV x)) := rfl

theorem exec_ldSTVx (x : Reg) (s : State) : exec (.ldSTVx x) s = .next (s.setSound (s.getV x)) := rfl

theorem exec_ldVxK (x : Reg) (s : State) : exec (.ldVxK x) s = .next (s.setWait (.waiting x)) := rfl

/-! ### One timer or the wait state written -/

theorem frame_setDelay (s : State) (b : Byte) : Frame { delayTimer := true } s (s.setDelay b) :=
  frame_of_parts _ _ _ (by simp)

theorem frame_setSound (s : State) (b : Byte) : Frame { soundTimer := true } s (s.setSound b) :=
  frame_of_parts _ _ _ (by simp)

theorem frame_setWait (s : State) (w : WaitState) : Frame { wait := true } s (s.setWait w) :=
  frame_of_parts _ _ _ (by simp)

/-! ### The obligations -/

/-- Settles O29: Fx07 is one `setV`, Fx15 one `setDelay` and Fx18 one `setSound`. -/
theorem timerTransfers : Obligations.TimerTransfers := by
  refine ⟨fun _ h => decodeWord_eq_ok_iff.2 (word_kk_of_and_F0FF h),
    fun _ h => decodeWord_eq_ok_iff.2 (word_kk_of_and_F0FF h),
    fun _ h => decodeWord_eq_ok_iff.2 (word_kk_of_and_F0FF h), fun x s => ?_, fun x s => ?_, fun x s => ?_⟩
  · exact writes_only_of_exec_eq_setV (exec_ldVxDT x s)
  · exact ⟨_, exec_ldDTVx x s, s.setDelay_delayTimer _, frame_setDelay s _⟩
  · exact ⟨_, exec_ldSTVx x s, s.setSound_soundTimer _, frame_setSound s _⟩

/-- Settles O32: Fx0A is one `setWait`. -/
theorem waitForKeyEntersWaitState : Obligations.WaitForKeyEntersWaitState :=
  ⟨fun _ h => decodeWord_eq_ok_iff.2 (word_kk_of_and_F0FF h), fun x s =>
    ⟨_, exec_ldVxK x s, s.setWait_wait _, frame_setWait s _⟩⟩

end Sys2Proof.Proofs.TimersInput
end

section
/-! The timer tick (60_exceptions.md): n ticks are n `tickDown`s of each timer, in every core state. -/

namespace Sys2Proof.Proofs.Exceptions

open Sys2Proof.Machine

/-! ### Iterated ticks (R240) -/

theorem tickDown_iterate_toNat (n : Nat) (b : Byte) : (tickDown^[n] b).toNat = b.toNat - n := by
  induction n with
  | zero => rfl
  | succ n ih => rw [Function.iterate_succ_apply', tickDown_toNat, ih, Nat.sub_sub]

/-- The two timers tick independently, and a tick reads neither the wait state nor the fault (R243). -/
theorem tickTimers_iterate (n : Nat) (s : State) :
    tickTimers^[n] s = (s.setDelay (tickDown^[n] s.delayTimer)).setSound (tickDown^[n] s.soundTimer) := by
  induction n with
  | zero => rfl
  | succ n ih => simp only [Function.iterate_succ_apply', ih]; rfl

theorem frame_setDelay_setSound (s : State) (d e : Byte) :
    Frame { delayTimer := true, soundTimer := true } s ((s.setDelay d).setSound e) :=
  frame_of_parts _ _ _ (by simp)

/-! ### The obligation -/

/-- Settles O49: n ticks are one `setDelay` and one `setSound` of the n-fold `tickDown`. -/
theorem ticksCountTimersDown : Obligations.TicksCountTimersDown := fun n s => by
  refine ⟨_, tickTimers_iterate n s, ?_, ?_, frame_setDelay_setSound s _ _⟩
  · rw [State.setSound_delayTimer, State.setDelay_delayTimer, tickDown_iterate_toNat]
  · rw [State.setSound_soundTimer, tickDown_iterate_toNat]

end Sys2Proof.Proofs.Exceptions
end

section
/-! The snapshot's layout (70_reset_and_hazards.md), as named fields: an encoding holds them, and they leave none of its
bytes open. -/

namespace Sys2Proof.Proofs.SnapshotFields

open Sys2Proof.Machine

/-! ### The fields of an encoding (R271) -/

/-- The bytes `p` hold every field of the table of R271 for the state `s`. -/
structure Fields (s : State) (p : List Byte) : Prop where
  length : p.length = 4422 + s.romBytes.length
  magic : p.take 4 = snapshotMagic
  version : byteAt p 4 = 1
  mem : ∀ a, a < 4096 → byteAt p (5 + a) = (s.mem.read a).toNat
  reg : ∀ r : Reg, byteAt p (4101 + r.toNat) = (s.getV r).toNat
  i : wordAt p 4117 = s.i.toNat
  pc : wordAt p 4119 = s.pc.toNat
  depth : byteAt p 4121 = s.stack.length
  stack : ∀ k, k < 16 → wordAt p (4122 + 2 * k) = (s.stack.getD k 0#12).toNat
  delay : byteAt p 4154 = s.delayTimer.toNat
  sound : byteAt p 4155 = s.soundTimer.toNat
  fb : ∀ j, j < 2048 → (byteAt p (4156 + j / 8)).testBit (7 - j % 8) = s.fb.pixelAt j
  keys : ∀ k : Reg, (wordAt p 4412).testBit k.toNat = s.key k
  drawFlag : byteAt p 4414 = s.drawFlag.toNat
  waitActive : byteAt p 4415 = (Machine.waitActive s.wait).toNat
  waitRegister : byteAt p 4416 = (Machine.waitRegister s.wait).toNat
  quirks : byteAt p 4417 = s.shiftQuirk.toNat + 2 * s.memQuirk.toNat
  fault : byteAt p 4418 = (faultByte s.fault).toNat
  romPresent : byteAt p 4419 = s.rom.isSome.toNat
  romLength : wordAt p 4420 = s.romBytes.length
  rom : p.drop 4422 = s.romBytes

theorem toNat_flagByte (c : Bool) : (flagByte c).toNat = c.toNat := by cases c <;> rfl

theorem toNat_quirksByte (s : State) : (quirksByte s).toNat = s.shiftQuirk.toNat + 2 * s.memQuirk.toNat := by
  rw [quirksByte, BitVec.toNat_ofNat]
  have := Bool.toNat_le s.shiftQuirk
  have := Bool.toNat_le s.memQuirk
  omega

section
variable (s : State)

theorem byteAt_of_snapshotByte {off : Nat} {b : Byte} (hoff : off < 4422) (h : snapshotByte s off = b) :
    byteAt (encodeSnapshot s) off = b.toNat := by
  rw [byteAt_encodeSnapshot s (by omega), h]

theorem wordAt_of_snapshotByte {off n : Nat} (hoff : off + 1 < 4422) (hn : n < 65536)
    (h : ∀ k, k < 2 → snapshotByte s (off + k) = wordByte n k) : wordAt (encodeSnapshot s) off = n := by
  have h0 : byteAt (encodeSnapshot s) off = (wordByte n 0).toNat := byteAt_of_snapshotByte s (by omega) (h 0 (by omega))
  rw [wordAt, h0, byteAt_of_snapshotByte s hoff (h 1 (by omega)), toNat_wordByte_zero hn, toNat_wordByte_one]
  omega

theorem take_encodeSnapshot : (encodeSnapshot s).take 4 = snapshotMagic := by
  rw [encodeSnapshot, ← List.map_take, List.take_range, Nat.min_eq_left (Nat.le_add_right_of_le (by decide))]
  exact List.map_congr_left fun k hk => snapshotByte_magic s (List.mem_range.1 hk)

theorem drop_encodeSnapshot : (encodeSnapshot s).drop 4422 = s.romBytes := by
  apply List.ext_getElem
  · rw [List.length_drop, length_encodeSnapshot, Nat.add_sub_cancel_left]
  · intro j h1 h2
    rw [List.getElem_drop]
    simp only [encodeSnapshot, List.getElem_map, List.getElem_range, snapshotByte_rom]
    exact List.getD_eq_getElem _ _ h2

theorem testBit_encodeSnapshot_fb {j : Nat} (hj : j < 2048) :
    (byteAt (encodeSnapshot s) (4156 + j / 8)).testBit (7 - j % 8) = s.fb.pixelAt j := by
  rw [byteAt_of_snapshotByte s (by omega) (snapshotByte_fb s (by omega)), testBit_fbByte]

theorem testBit_encodeSnapshot_keys (k : Reg) : (wordAt (encodeSnapshot s) 4412).testBit k.toNat = s.key k := by
  rw [wordAt, byteAt_of_snapshotByte s (by omega) (snapshotByte_keys s (show 0 < 2 by omega)),
    byteAt_of_snapshotByte s (by omega) (snapshotByte_keys s (show 1 < 2 by omega)), testBit_keysField]

/-- An encoding holds every field; the stack bound and the ROM bound make the depth and the ROM length fit. -/
theorem fields_encodeSnapshot (h : s.Inv) : Fields s (encodeSnapshot s) := by
  obtain ⟨-, (hstack : s.stack.length ≤ 16), (hrom : s.romBytes.length ≤ 3584)⟩ := h
  have hdepth : (BitVec.ofNat 8 s.stack.length).toNat = s.stack.length := by
    rw [BitVec.toNat_ofNat]; exact Nat.mod_eq_of_lt (by omega)
  exact {
    length := length_encodeSnapshot s
    magic := take_encodeSnapshot s
    version := byteAt_of_snapshotByte s (by omega) (snapshotByte_version s)
    mem := fun a ha => byteAt_of_snapshotByte s (by omega) (snapshotByte_mem s ha)
    reg := fun r => byteAt_of_snapshotByte s (by omega) (snapshotByte_reg s r)
    i := wordAt_of_snapshotByte s (by omega) (by omega) fun _ => snapshotByte_i s
    pc := wordAt_of_snapshotByte s (by omega) (by omega) fun _ => snapshotByte_pc s
    depth := (byteAt_of_snapshotByte s (by omega) (snapshotByte_depth s)).trans hdepth
    stack := fun k hk => wordAt_of_snapshotByte s (by omega) (by omega) fun _ => snapshotByte_stack s hk
    delay := byteAt_of_snapshotByte s (by omega) (snapshotByte_delay s)
    sound := byteAt_of_snapshotByte s (by omega) (snapshotByte_sound s)
    fb := fun _ => testBit_encodeSnapshot_fb s
    keys := testBit_encodeSnapshot_keys s
    drawFlag := (byteAt_of_snapshotByte s (by omega) (snapshotByte_drawFlag s)).trans (toNat_flagByte _)
    waitActive := byteAt_of_snapshotByte s (by omega) (snapshotByte_waitActive s)
    waitRegister := byteAt_of_snapshotByte s (by omega) (snapshotByte_waitRegister s)
    quirks := (byteAt_of_snapshotByte s (by omega) (snapshotByte_quirks s)).trans (toNat_quirksByte s)
    fault := byteAt_of_snapshotByte s (by omega) (snapshotByte_fault s)
    romPresent := (byteAt_of_snapshotByte s (by omega) (snapshotByte_romPresent s)).trans (toNat_flagByte _)
    romLength := wordAt_of_snapshotByte s (by omega) (by omega) fun _ => snapshotByte_romLength s
    rom := drop_encodeSnapshot s }

end

/-! ### The fields determine the bytes -/

section
variable {s : State} {p : List Byte}

theorem getD_of_byteAt {off : Nat} {b : Byte} (h : byteAt p off = b.toNat) : p.getD off 0#8 = b :=
  BitVec.eq_of_toNat_eq h

theorem ofNat_byteAt {off : Nat} {b : Byte} (h : byteAt p off = b.toNat) : BitVec.ofNat 8 (byteAt p off) = b := by
  rw [h, BitVec.ofNat_toNat, BitVec.setWidth_eq]

/-- A byte is its eight bits. -/
theorem packBits_testBit (b : Byte) : packBits b.toNat.testBit = b :=
  BitVec.eq_of_toNat_eq (Nat.eq_of_testBit_eq fun j => by
    by_cases hj : j < 8
    · exact testBit_packBits _ hj
    · have hbig : ∀ c : Byte, c.toNat.testBit j = false := fun c =>
        Nat.testBit_lt_two_pow (Nat.lt_of_lt_of_le c.isLt (Nat.pow_le_pow_right (by omega) (by omega)))
      rw [hbig, hbig])

theorem packBits_congr {f g : Nat → Bool} (h : ∀ j, j < 8 → f j = g j) : packBits f = packBits g := by
  simp only [packBits, h 0 (by omega), h 1 (by omega), h 2 (by omega), h 3 (by omega), h 4 (by omega), h 5 (by omega),
    h 6 (by omega), h 7 (by omega)]

/-- A byte is packed from the bits that it has. -/
theorem packBits_eq_of_testBit {f : Nat → Bool} {b : Byte} (h : ∀ j, j < 8 → f j = b.toNat.testBit j) :
    packBits f = b :=
  (packBits_congr h).trans (packBits_testBit b)

theorem testBit_wordAt (off : Nat) {k b : Nat} (hk : k < 2) (hb : b < 8) :
    (wordAt p off).testBit (8 * (1 - k) + b) = (byteAt p (off + k)).testBit b := by
  rw [wordAt, Nat.mul_comm, show 256 = 2 ^ 8 by rfl, Nat.testBit_two_pow_mul_add _ (byteAt_lt p (off + 1))]
  obtain rfl | rfl : k = 0 ∨ k = 1 := by omega
  · rw [if_neg (by omega), show 8 * (1 - 0) + b - 8 = b by omega]; rfl
  · rw [if_pos (by omega), show 8 * (1 - 1) + b = b by omega]

theorem wordByte_of_wordAt {off n k : Nat} (h : wordAt p off = n) (hk : k < 2) :
    wordByte n k = p.getD (off + k) 0#8 := by
  obtain rfl | rfl : k = 0 ∨ k = 1 := by omega
  · exact h ▸ wordByte_wordAt_zero p off
  · exact h ▸ wordByte_wordAt_one p off

theorem fbByte_of_fields (h : Fields s p) {j : Nat} (hj : j < 256) : fbByte s.fb j = p.getD (4156 + j) 0#8 := by
  refine packBits_eq_of_testBit fun b hb => ?_
  have hbit := h.fb (8 * j + (7 - b)) (by omega)
  rw [show (8 * j + (7 - b)) / 8 = j by omega, show 7 - (8 * j + (7 - b)) % 8 = b by omega] at hbit
  exact hbit.symm

theorem keysByte_of_fields (h : Fields s p) {k : Nat} (hk : k < 2) : keysByte s k = p.getD (4412 + k) 0#8 := by
  refine packBits_eq_of_testBit fun b hb => ?_
  have hreg : (regOf (8 * (1 - k) + b)).toNat = 8 * (1 - k) + b :=
    ((regOf_eq_iff (by omega) _).1 rfl)
  have hkey := h.keys (regOf (8 * (1 - k) + b))
  rw [hreg, testBit_wordAt 4412 hk hb] at hkey
  exact hkey.symm

/-- The bytes up to the stack, range by range of the table of R271. -/
theorem snapshotByte_of_fields_of_lt (h : Fields s p) {off : Nat} (hoff : off < 4154) :
    snapshotByte s off = p.getD off 0#8 := by
  have hfield : ∀ lo, lo ≤ off → ∃ k, off = lo + k := fun lo hlo => Nat.exists_eq_add_of_le hlo
  by_cases hlt : off < 4
  · rw [snapshotByte_magic s hlt, ← h.magic]; simp [List.getD_eq_getElem?_getD, hlt]
  by_cases hlt : off < 5
  · obtain rfl : off = 4 := by omega
    exact (snapshotByte_version s).trans (getD_of_byteAt h.version).symm
  by_cases hlt : off < 4101
  · obtain ⟨a, rfl⟩ := hfield 5 (by omega)
    exact (snapshotByte_mem s (by omega)).trans (getD_of_byteAt (h.mem a (by omega))).symm
  by_cases hlt : off < 4117
  · obtain ⟨k, rfl⟩ := hfield 4101 (by omega)
    obtain ⟨r, rfl⟩ : ∃ r : Reg, k = r.toNat := ⟨regOf k, ((regOf_eq_iff (by omega) _).1 rfl).symm⟩
    exact (snapshotByte_reg s r).trans (getD_of_byteAt (h.reg r)).symm
  by_cases hlt : off < 4119
  · obtain ⟨k, rfl⟩ := hfield 4117 (by omega)
    exact (snapshotByte_i s (by omega)).trans (wordByte_of_wordAt h.i (by omega))
  by_cases hlt : off < 4121
  · obtain ⟨k, rfl⟩ := hfield 4119 (by omega)
    exact (snapshotByte_pc s (by omega)).trans (wordByte_of_wordAt h.pc (by omega))
  by_cases hlt : off < 4122
  · obtain rfl : off = 4121 := by omega
    rw [snapshotByte_depth, ← h.depth]
    exact ofNat_byteAt rfl
  · obtain ⟨k, rfl⟩ := hfield 4122 (by omega)
    have hsplit : 4122 + k = 4122 + 2 * (k / 2) + k % 2 := by omega
    rw [hsplit, snapshotByte_stack s (by omega) (by omega)]
    exact wordByte_of_wordAt (h.stack (k / 2) (by omega)) (by omega)

/-- The bytes after the stack, range by range of the table of R271. -/
theorem snapshotByte_of_fields_of_ge (h : Fields s p) {off : Nat} (hoff : 4154 ≤ off) :
    snapshotByte s off = p.getD off 0#8 := by
  have hfield : ∀ lo, lo ≤ off → ∃ k, off = lo + k := fun lo hlo => Nat.exists_eq_add_of_le hlo
  by_cases hlt : off < 4155
  · obtain rfl : off = 4154 := by omega
    exact (snapshotByte_delay s).trans (getD_of_byteAt h.delay).symm
  by_cases hlt : off < 4156
  · obtain rfl : off = 4155 := by omega
    exact (snapshotByte_sound s).trans (getD_of_byteAt h.sound).symm
  by_cases hlt : off < 4412
  · obtain ⟨j, rfl⟩ := hfield 4156 (by omega)
    exact (snapshotByte_fb s (by omega)).trans (fbByte_of_fields h (by omega))
  by_cases hlt : off < 4414
  · obtain ⟨k, rfl⟩ := hfield 4412 (by omega)
    exact (snapshotByte_keys s (by omega)).trans (keysByte_of_fields h (by omega))
  by_cases hlt : off < 4415
  · obtain rfl : off = 4414 := by omega
    exact (snapshotByte_drawFlag s).trans (getD_of_byteAt (h.drawFlag.trans (toNat_flagByte _).symm)).symm
  by_cases hlt : off < 4416
  · obtain rfl : off = 4415 := by omega
    exact (snapshotByte_waitActive s).trans (getD_of_byteAt h.waitActive).symm
  by_cases hlt : off < 4417
  · obtain rfl : off = 4416 := by omega
    exact (snapshotByte_waitRegister s).trans (getD_of_byteAt h.waitRegister).symm
  by_cases hlt : off < 4418
  · obtain rfl : off = 4417 := by omega
    exact (snapshotByte_quirks s).trans (getD_of_byteAt (h.quirks.trans (toNat_quirksByte s).symm)).symm
  by_cases hlt : off < 4419
  · obtain rfl : off = 4418 := by omega
    exact (snapshotByte_fault s).trans (getD_of_byteAt h.fault).symm
  by_cases hlt : off < 4420
  · obtain rfl : off = 4419 := by omega
    exact (snapshotByte_romPresent s).trans (getD_of_byteAt (h.romPresent.trans (toNat_flagByte _).symm)).symm
  by_cases hlt : off < 4422
  · obtain ⟨k, rfl⟩ := hfield 4420 (by omega)
    exact (snapshotByte_romLength s (by omega)).trans (wordByte_of_wordAt h.romLength (by omega))
  · obtain ⟨j, rfl⟩ := hfield 4422 (by omega)
    rw [snapshotByte_rom, ← h.rom]; simp [List.getD_eq_getElem?_getD]

/-- The fields leave no byte of a snapshot open: bytes that hold the fields of `s` are its encoding. -/
theorem encodeSnapshot_eq_of_fields (h : Fields s p) : encodeSnapshot s = p := by
  refine List.ext_getElem ((length_encodeSnapshot s).trans h.length.symm) fun off _ hoff => ?_
  have hbyte : snapshotByte s off = p.getD off 0#8 :=
    (Nat.lt_or_ge off 4154).elim (snapshotByte_of_fields_of_lt h) (snapshotByte_of_fields_of_ge h)
  rw [← List.getD_eq_getElem p 0#8 hoff, ← hbyte]
  simp [encodeSnapshot]

end

/-! ### The obligation -/

/-- Settles O52: an encoding holds every field of R271. -/
theorem snapshotLayout : Obligations.SnapshotLayout := by
  rintro s _ hinv rfl
  have h := fields_encodeSnapshot s hinv
  refine ⟨h.length, h.magic, h.version, h.mem, h.reg, h.i, h.pc, h.depth, h.stack, h.delay, h.sound, fun px py => ?_,
    h.keys, h.drawFlag, fun hw => ?_, fun r hw => ?_, h.quirks, ?_, h.romPresent, h.romLength, h.rom⟩
  · rw [h.fb _ (by omega), Framebuffer.pixelAt_eq]
  · rw [h.waitActive, h.waitRegister, hw]; exact ⟨rfl, rfl⟩
  · rw [h.waitActive, h.waitRegister, hw]; exact ⟨rfl, BitVec.toNat_setWidth_of_le (by decide)⟩
  · rw [h.fault]; cases s.fault <;> rfl

end Sys2Proof.Proofs.SnapshotFields
end

section
/-! Snapshot and restore (70_reset_and_hazards.md): the state that bytes decode to, that decoding and encoding undo each
other, and that restore takes that state or changes nothing. -/

namespace Sys2Proof.Proofs.Snapshot

open Sys2Proof.Machine Sys2Proof.Proofs.SnapshotFields

/-! ### The elements of the decoded state (R273) -/

section
variable {p : List Byte} (keep : State)

/-- The mem field: 4096 bytes from offset 5 on. -/
theorem getD_memField {a : Nat} (ha : a < 4096) : ((p.drop 5).take 4096).getD a 0#8 = p.getD (5 + a) 0#8 := by
  simp [List.getD_eq_getElem?_getD, ha]

theorem wf_mem_stateOfSnapshot : (stateOfSnapshot keep p).mem.wf = true :=
  Memory.wfFrom_ofBytes _ 0 (by rw [Nat.zero_add]; exact List.length_take_le 4096 (p.drop 5))

theorem read_stateOfSnapshot (hlen : 4422 ≤ p.length) {a : Nat} (ha : a < 4096) :
    (stateOfSnapshot keep p).mem.read a = p.getD (5 + a) 0#8 := by
  have hfield : ((p.drop 5).take 4096).length = 4096 := by
    rw [List.length_take, List.length_drop]; omega
  rw [Memory.read, Nat.mod_eq_of_lt (show a < Config.memSize from ha)]
  refine (Memory.lookup_ofBytes ((p.drop 5).take 4096) 0 a (by omega)).trans ?_
  rw [if_pos ⟨Nat.zero_le a, by omega⟩, Nat.sub_zero, getD_memField ha]

theorem getV_stateOfSnapshot (r : Reg) :
    (stateOfSnapshot keep p).getV r = BitVec.ofNat 8 (byteAt p (4101 + r.toNat)) := by
  simp [stateOfSnapshot, State.getV]

theorem length_stack_stateOfSnapshot : (stateOfSnapshot keep p).stack.length = byteAt p 4121 := by
  simp [stateOfSnapshot]

theorem getD_stack_stateOfSnapshot (k : Nat) : (stateOfSnapshot keep p).stack.getD k 0#12 =
    if k < byteAt p 4121 then BitVec.ofNat 12 (wordAt p (4122 + 2 * k)) else 0#12 := by
  simp only [stateOfSnapshot, List.getD_eq_getElem?_getD, List.getElem?_map]
  split_ifs with hk
  · rw [List.getElem?_range hk]; rfl
  · rw [List.getElem?_eq_none (by rw [List.length_range]; omega)]; rfl

theorem pixelAt_stateOfSnapshot {j : Nat} (hj : j < 2048) :
    (stateOfSnapshot keep p).fb.pixelAt j = (byteAt p (4156 + j / 8)).testBit (7 - j % 8) := by
  simp only [stateOfSnapshot, Framebuffer.pixelAt, Framebuffer.pixel, Vector.getElem_ofFn, Fin.ofNat]
  rw [show j / 64 % 32 * 64 + j % 64 = j by omega, show j % 64 % 8 = j % 8 by omega]

theorem key_stateOfSnapshot (k : Reg) : (stateOfSnapshot keep p).key k = (wordAt p 4412).testBit k.toNat := by
  simp [stateOfSnapshot, State.key]

/-- Without a ROM the ROM length is 0, so no byte stands where the ROM would. -/
theorem romBytes_stateOfSnapshot (hlen : p.length = 4422 + wordAt p 4420)
    (hpresent : byteAt p 4419 = 1 ∨ wordAt p 4420 = 0) : (stateOfSnapshot keep p).romBytes = p.drop 4422 := by
  simp only [stateOfSnapshot, State.romBytes]
  split_ifs with h1
  · rfl
  · exact (List.drop_eq_nil_of_le (by omega)).symm

end

/-! ### Decode after encode (R274) -/

section
variable {s : State} {p : List Byte}

/-- Bytes that hold the fields of a state within the bounds pass every condition of R273. -/
theorem snapshotValid_of_fields (h : Fields s p) (hstack : s.stack.length ≤ 16) (hrom : s.romBytes.length ≤ 3584) :
    snapshotValid p = true := by
  have hentry : ∀ k, k < 16 →
      if k < byteAt p 4121 then wordAt p (4122 + 2 * k) ≤ 0x0FFF else wordAt p (4122 + 2 * k) = 0 := by
    intro k hk
    rw [h.depth, h.stack k hk]
    split
    · omega
    · next hge => rw [List.getD_eq_default _ _ (by omega)]; rfl
  have hquirks : s.shiftQuirk.toNat + 2 * s.memQuirk.toNat ≤ 3 := by
    have := Bool.toNat_le s.shiftQuirk
    have := Bool.toNat_le s.memQuirk
    omega
  have hwait : (waitActive s.wait).toNat ≤ 1 ∧ (waitRegister s.wait).toNat ≤ 15 ∧
      ((waitActive s.wait).toNat = 1 ∨ (waitRegister s.wait).toNat = 0) := by
    cases s.wait with
    | idle => simp [waitActive, waitRegister]
    | waiting r => have := r.isLt; simp [waitActive, waitRegister]; omega
  have hfault : (faultByte s.fault).toNat ≤ 2 := by cases s.fault <;> decide
  have hpresent : s.rom.isSome.toNat = 1 ∨ s.romBytes.length = 0 := by
    cases hr : s.rom <;> simp [State.romBytes, hr]
  rw [snapshotValid_iff, h.length, h.magic, h.version, h.i, h.pc, h.drawFlag, h.waitActive, h.waitRegister, h.quirks,
    h.fault, h.romPresent, h.romLength, h.depth]
  obtain ⟨hactive, hregister, hidle⟩ := hwait
  exact ⟨rfl, rfl, rfl, by omega, by omega, hstack, h.depth ▸ hentry, Bool.toNat_le _, hactive, Bool.toNat_le _,
    hregister, hidle, hquirks, hfault, hrom, hpresent⟩

theorem ofNat_wordAt {off : Nat} {a : Addr} (h : wordAt p off = a.toNat) : BitVec.ofNat 12 (wordAt p off) = a := by
  rw [h, BitVec.ofNat_toNat, BitVec.setWidth_eq]

/-- Decoding reads every field of R271 back into the element it came from. -/
theorem stateOfSnapshot_of_fields (keep : State) (h : Fields s p) (hmem : s.mem.wf = true)
    (hstack : s.stack.length ≤ 16) : stateOfSnapshot keep p = s.keepOwn keep := by
  have hlen := h.length
  simp only [stateOfSnapshot, State.keepOwn, State.mk.injEq, and_true]
  refine ⟨?mem, ?v, ofNat_wordAt h.i, ofNat_wordAt h.pc, ?stack, ofNat_byteAt h.delay, ofNat_byteAt h.sound, ?fb,
    ?drawFlag, ?keys, ?wait, ?shiftQuirk, ?memQuirk, ?rom, ?fault⟩
  case mem =>
    exact Memory.eq_of_read (wf_mem_stateOfSnapshot keep) hmem fun a ha =>
      (read_stateOfSnapshot keep (by omega) ha).trans (getD_of_byteAt (h.mem a ha))
  case v =>
    ext1 k hk
    have hreg := h.reg (BitVec.ofFin ⟨k, hk⟩)
    rw [Vector.getElem_ofFn]
    exact ofNat_byteAt hreg
  case stack =>
    refine List.ext_getElem (by rw [List.length_map, List.length_range, h.depth]) fun k hk hk' => ?_
    rw [List.getElem_map, List.getElem_range, ofNat_wordAt (h.stack k (by omega)), List.getD_eq_getElem _ _ hk']
  case fb =>
    refine Framebuffer.eq_of_pixel fun px py => ?_
    have hbit := h.fb (py.1 * 64 + px.1) (by omega)
    rw [Framebuffer.pixelAt_eq, show (py.1 * 64 + px.1) % 8 = px.1 % 8 by omega] at hbit
    simpa only [Framebuffer.pixel, Vector.getElem_ofFn] using hbit
  case drawFlag => rw [h.drawFlag]; cases s.drawFlag <;> rfl
  case keys =>
    ext1 k hk
    have hkey := h.keys (BitVec.ofFin ⟨k, hk⟩)
    rw [Vector.getElem_ofFn]
    exact hkey
  case wait =>
    rw [h.waitActive, h.waitRegister]
    cases s.wait with
    | idle => rfl
    | waiting r => simp [waitActive, waitRegister, Nat.mod_eq_of_lt (show r.toNat < 256 by omega)]
  case shiftQuirk => rw [h.quirks]; cases s.shiftQuirk <;> cases s.memQuirk <;> rfl
  case memQuirk => rw [h.quirks]; cases s.shiftQuirk <;> cases s.memQuirk <;> rfl
  case rom =>
    rw [h.romPresent, h.rom, State.romBytes]
    cases s.rom <;> rfl
  case fault => rw [h.fault, faultOfByte_faultByte]

theorem decodeSnapshot_encodeSnapshot (keep : State) (h : s.Inv) :
    decodeSnapshot keep (encodeSnapshot s) = some (s.keepOwn keep) := by
  have hfields := fields_encodeSnapshot s h
  obtain ⟨hmem, hstack, hrom⟩ := h
  rw [decodeSnapshot, if_pos (snapshotValid_of_fields hfields hstack hrom),
    stateOfSnapshot_of_fields keep hfields hmem hstack]

end

/-! ### Encode after decode (R273) -/

section
variable {p : List Byte}

theorem toNat_ofNat_byteAt (off : Nat) : (BitVec.ofNat 8 (byteAt p off)).toNat = byteAt p off :=
  Nat.mod_eq_of_lt (byteAt_lt p off)

theorem toNat_ofNat_wordAt {off : Nat} (h : wordAt p off ≤ 0x0FFF) :
    (BitVec.ofNat 12 (wordAt p off)).toNat = wordAt p off :=
  Nat.mod_eq_of_lt (by omega)

theorem toNat_faultByte_faultOfByte {b : Nat} (hb : b ≤ 2) : (faultByte (faultOfByte b)).toNat = b := by
  obtain rfl | rfl | rfl : b = 0 ∨ b = 1 ∨ b = 2 := by omega
  all_goals rfl

theorem toNat_testBit_zero_one {b : Nat} (hb : b ≤ 3) : (b.testBit 0).toNat + 2 * (b.testBit 1).toNat = b := by
  interval_cases b <;> rfl

/-- The state of a valid snapshot: the snapshot holds its fields. -/
theorem fields_stateOfSnapshot (keep : State) (h : snapshotValid p = true) : Fields (stateOfSnapshot keep p) p := by
  obtain ⟨hlen, hmagic, hversion, hi, hpc, hdepth, hstack, hflag, hactive, hpresent, hregister, hidle, hquirks, hfault,
    hromLength, hrom⟩ := (snapshotValid_iff p).1 h
  have hbytes := romBytes_stateOfSnapshot keep hlen hrom
  have hbytesLength : (stateOfSnapshot keep p).romBytes.length = wordAt p 4420 := by
    rw [hbytes, List.length_drop]; omega
  exact {
    length := hbytesLength ▸ hlen
    magic := hmagic
    version := hversion
    mem := fun a ha => congrArg BitVec.toNat (read_stateOfSnapshot keep (by omega) ha).symm
    reg := fun r => by rw [getV_stateOfSnapshot, toNat_ofNat_byteAt]
    i := (toNat_ofNat_wordAt hi).symm
    pc := (toNat_ofNat_wordAt hpc).symm
    depth := (length_stack_stateOfSnapshot keep).symm
    stack := fun k hk => by
      have hentry := hstack k hk
      rw [getD_stack_stateOfSnapshot]
      split_ifs at hentry ⊢
      · exact (toNat_ofNat_wordAt hentry).symm
      · exact hentry
    delay := (toNat_ofNat_byteAt 4154).symm
    sound := (toNat_ofNat_byteAt 4155).symm
    fb := fun j hj => (pixelAt_stateOfSnapshot keep hj).symm
    keys := fun k => (key_stateOfSnapshot keep k).symm
    drawFlag := by
      obtain h0 | h1 : byteAt p 4414 = 0 ∨ byteAt p 4414 = 1 := by omega
      all_goals simp [stateOfSnapshot, *]
    waitActive := by
      obtain h0 | h1 : byteAt p 4415 = 0 ∨ byteAt p 4415 = 1 := by omega
      all_goals simp [stateOfSnapshot, Machine.waitActive, *]
    waitRegister := by
      by_cases h1 : byteAt p 4415 = 1
      · simp [stateOfSnapshot, Machine.waitRegister, h1]; omega
      · simp [stateOfSnapshot, Machine.waitRegister, h1]; omega
    quirks := (toNat_testBit_zero_one hquirks).symm
    fault := (toNat_faultByte_faultOfByte hfault).symm
    romPresent := by
      obtain h0 | h1 : byteAt p 4419 = 0 ∨ byteAt p 4419 = 1 := by omega
      all_goals simp [stateOfSnapshot, *]
    romLength := hbytesLength.symm
    rom := hbytes.symm }

theorem inv_stateOfSnapshot (keep : State) (h : snapshotValid p = true) : (stateOfSnapshot keep p).Inv := by
  obtain ⟨hlen, -, -, -, -, hdepth, -, -, -, -, -, -, -, -, hromLength, hrom⟩ := (snapshotValid_iff p).1 h
  refine ⟨wf_mem_stateOfSnapshot keep, ?_, ?_⟩
  · rw [length_stack_stateOfSnapshot]; exact hdepth
  · rw [romBytes_stateOfSnapshot keep hlen hrom, List.length_drop, hlen, Nat.add_sub_cancel_left]; exact hromLength

/-- What decodes meets the invariant and encodes to the bytes it was decoded from. -/
theorem encodeSnapshot_of_decodeSnapshot {keep t : State} (h : decodeSnapshot keep p = some t) :
    t.Inv ∧ encodeSnapshot t = p := by
  rw [decodeSnapshot, Option.ite_none_right_eq_some, Option.some_inj] at h
  obtain ⟨hvalid, rfl⟩ := h
  exact ⟨inv_stateOfSnapshot keep hvalid, encodeSnapshot_eq_of_fields (fields_stateOfSnapshot keep hvalid)⟩

end

/-! ### Restore (R272) -/

theorem restore_of_decode {c : Codec} {b p : List Byte} {s t : State} (hp : c.decompress b = some p)
    (ht : decodeSnapshot s p = some t) : restore c b s = (.ok, t) := by
  rw [restore, hp, Option.bind_some, ht]

theorem restore_of_invalid {c : Codec} {b p : List Byte} {s : State} (hp : c.decompress b = some p)
    (hinvalid : snapshotValid p = false) : restore c b s = (.invalidSnapshot, s) := by
  rw [restore, hp, Option.bind_some, decodeSnapshot, if_neg (by simp [hinvalid])]

theorem restore_of_decompress_none {c : Codec} {b : List Byte} {s : State} (hp : c.decompress b = none) :
    restore c b s = (.invalidSnapshot, s) := by
  rw [restore, hp, Option.bind_none]

/-- Everything restore can do: take the state that the decompressed bytes decode to, or change nothing. -/
theorem restore_cases (c : Codec) (b : List Byte) (s : State) :
    (∃ p t, c.decompress b = some p ∧ decodeSnapshot s p = some t ∧ restore c b s = (.ok, t)) ∨
    restore c b s = (.invalidSnapshot, s) := by
  cases hp : c.decompress b with
  | none => exact .inr (restore_of_decompress_none hp)
  | some p =>
    cases hv : snapshotValid p with
    | false => exact .inr (restore_of_invalid hp hv)
    | true =>
      have ht : decodeSnapshot s p = some (stateOfSnapshot s p) := if_pos hv
      exact .inl ⟨p, _, rfl, ht, restore_of_decode hp ht⟩

/-- Bytes that are too short, of another magic or of another version are invalid (conditions 1 to 3 of R273). -/
theorem snapshotValid_eq_false_of_header {p : List Byte}
    (h : p.length < 4422 ∨ p.take 4 ≠ snapshotMagic ∨ p.getD 4 0#8 ≠ 1#8) : snapshotValid p = false := by
  rw [← Bool.not_eq_true, snapshotValid_iff]
  rintro ⟨hlen, hmagic, hversion, -⟩
  obtain h | h | h := h
  · omega
  · exact h hmagic
  · exact h (getD_of_byteAt hversion)

/-! ### The obligations -/

/-- Settles O53, from `decodeSnapshot_encodeSnapshot` and the law of the codec. -/
theorem snapshotRoundTrip : Obligations.SnapshotRoundTrip := by
  refine ⟨fun keep s h => decodeSnapshot_encodeSnapshot keep h, fun c s hc h => ?_⟩
  exact restore_of_decode (hc _) (decodeSnapshot_encodeSnapshot s h)

/-- Settles O54: what decodes encodes back, and what is encoded decodes. -/
theorem decodeAcceptsExactlyEncodings : Obligations.DecodeAcceptsExactlyEncodings := by
  refine ⟨fun keep t p => encodeSnapshot_of_decodeSnapshot, fun keep p => ⟨?_, ?_⟩⟩
  · rintro ⟨t, h⟩
    exact ⟨t, encodeSnapshot_of_decodeSnapshot h⟩
  · rintro ⟨s, hinv, rfl⟩
    exact ⟨_, decodeSnapshot_encodeSnapshot keep hinv⟩

/-- Settles O55: by `restore_cases` the state is one that the decompressed bytes decode to, so it encodes to them, or
it is the old one. -/
theorem restoreIsAtomic : Obligations.RestoreIsAtomic := by
  refine ⟨fun c b s t h => ?_, fun c b s t h => ?_, fun c b s hp => restore_of_decompress_none hp,
    fun c b p s hp hheader => restore_of_invalid hp (snapshotValid_eq_false_of_header hheader)⟩
  · obtain ⟨p, u, -, -, hok⟩ | hinvalid := restore_cases c b s
    · cases hok.symm.trans h
    · cases hinvalid.symm.trans h; rfl
  · obtain ⟨p, u, hp, hu, hok⟩ | hinvalid := restore_cases c b s
    · cases hok.symm.trans h
      rw [hp, (encodeSnapshot_of_decodeSnapshot hu).2]
    · cases hinvalid.symm.trans h

end Sys2Proof.Proofs.Snapshot
end

section
/-! The frame of every instruction (R108, D37), said once: what each may change, and that nothing else does. -/

namespace Sys2Proof.Proofs.Frames

open Sys2Proof.Machine
open Sys2Proof.Proofs.ControlFlow (frame_setPc frame_dropTop_setPc exec_ret_of_stack_append exec_ret_of_stack_nil)
open Sys2Proof.Proofs.RegisterAlu (frame_setV)
open Sys2Proof.Proofs.IndexMemory (frame_setI frame_setMem)
open Sys2Proof.Proofs.Display (frame_setDisplay)
open Sys2Proof.Proofs.TimersInput (frame_setDelay frame_setSound frame_setWait)

/-- What an instruction may change in the state it runs on: the destinations that its rule names. CALL, SKP and SKNP
have two, for the instruction that completes and for the one that raises a fault (R123, R216). -/
def changes (s : State) : Instr → Changes
  | .cls => { display := true }
  | .ret => { pc := true, stack := true }
  | .call _ => if s.stack.length < 16 then { pc := true, stack := true } else { fault := true }
  | .jp _ | .jpV0 _ | .seImm _ _ | .sneImm _ _ | .seReg _ _ | .sneReg _ _ => { pc := true }
  | .ldImm x _ | .addImm x _ | .ldReg x _ | .orReg x _ | .andReg x _ | .xorReg x _ | .ldVxDT x => { regs := [x] }
  | .addReg x _ | .subReg x _ | .shr x _ | .subn x _ | .shl x _ => { regs := [x, regF] }
  | .rnd x _ => { regs := [x], draw := true }
  | .ldI _ | .addI _ | .ldF _ => { i := true }
  | .drw _ _ _ => { regs := [regF], display := true }
  | .skp x | .sknp x =>
    if s.params.keyIndexPolicy = .fault ∧ 0xF < (s.getV x).toNat then { fault := true } else { pc := true }
  | .ldVxK _ => { wait := true }
  | .ldDTVx _ => { delayTimer := true }
  | .ldSTVx _ => { soundTimer := true }
  | .ldB _ => { mem := [s.indexAddr 0, s.indexAddr 1, s.indexAddr 2] }
  | .storeRegs x => { mem := (List.range (x.toNat + 1)).map s.indexAddr, i := s.memQuirk }
  | .loadRegs x => { regs := (List.range (x.toNat + 1)).map regOf, i := s.memQuirk }

/-! ### The frames of the operations -/

section
variable (s : State)

theorem frame_refl (c : Changes) : Frame c s s := frame_of_parts _ _ _ (by simp)

theorem frame_push_setPc (a b : Addr) : Frame { pc := true, stack := true } s ((s.push a).setPc b) :=
  frame_of_parts _ _ _ (by simp)

theorem frame_raise (f : FaultState) : Frame { fault := true } s (s.raise f) := frame_of_parts _ _ _ (by simp)

theorem frame_skipIf (c : Bool) : Frame { pc := true } s (s.skipIf c) := frame_of_parts _ _ _ (by simp)

theorem frame_setV_setV {x y : Reg} {rs : List Reg} (hx : x ∈ rs) (hy : y ∈ rs) (b c : Byte) :
    Frame { regs := rs } s ((s.setV x b).setV y c) := by
  have hreg : ∀ r, r ∉ rs → ((s.setV x b).setV y c).getV r = s.getV r := fun r hr => by
    rw [State.getV_setV, if_neg (ne_of_mem_of_not_mem hy hr).symm, State.getV_setV,
      if_neg (ne_of_mem_of_not_mem hx hr).symm]
  exact frame_of_parts _ _ _ (by simpa using hreg)

theorem frame_setV_consumeDraw (x : Reg) (b : Byte) :
    Frame { regs := [x], draw := true } s (s.setV x b).consumeDraw :=
  frame_of_parts _ _ _ (by simp +contextual)

theorem frame_setV_setDisplay_setV (x : Reg) (b c : Byte) (f : Framebuffer) :
    Frame { regs := [x], display := true } s (((s.setV x b).setDisplay f).setV x c) :=
  frame_of_parts _ _ _ (by simp +contextual)

theorem frame_skipOnKey_of_fault {x : Reg} (hp : s.params.keyIndexPolicy = .fault) (hx : 0xF < (s.getV x).toNat)
    (pressed : Bool) : Frame { fault := true } s (s.skipOnKey x pressed) := by
  rw [s.skipOnKey_of_fault x pressed hp hx]; exact frame_raise s _

theorem frame_skipOnKey {x : Reg} (h : ¬ (s.params.keyIndexPolicy = .fault ∧ 0xF < (s.getV x).toNat)) (pressed : Bool) :
    Frame { pc := true } s (s.skipOnKey x pressed) := by
  obtain ⟨c, hc⟩ | ⟨-, hfault⟩ := s.skipOnKey_cases x pressed
  · rw [hc]; exact frame_skipIf s c
  · exact absurd hfault h

theorem frame_three_writes (b c d : Byte) : Frame { mem := [s.indexAddr 0, s.indexAddr 1, s.indexAddr 2] } s
    (s.setMem (((s.mem.write (s.indexAddr 0) b).write (s.indexAddr 1) c).write (s.indexAddr 2) d)) := by
  refine frame_setMem fun a ha => ?_
  simp only [List.forall_mem_cons] at ha
  obtain ⟨h0, h1, h2, -⟩ := ha
  rw [Memory.read_write, if_neg h2, Memory.read_write, if_neg h1, Memory.read_write, if_neg h0]

theorem frame_stores (x : Reg) : Frame { mem := (List.range (x.toNat + 1)).map s.indexAddr, i := s.memQuirk } s
    ((s.setMem (s.memAfterStores (x.toNat + 1))).autoIncrement x) := by
  have hmem : ∀ a, (∀ b ∈ (List.range (x.toNat + 1)).map s.indexAddr, a % 4096 ≠ b % 4096) →
      (s.memAfterStores (x.toNat + 1)).read a = s.mem.read a := fun a ha =>
    s.read_memAfterStores_other _ a fun k hk => ha _ (List.mem_map_of_mem (List.mem_range.2 hk))
  exact frame_of_parts _ _ _ (by simp +contextual; simpa using hmem)

theorem frame_loads (x : Reg) : Frame { regs := (List.range (x.toNat + 1)).map regOf, i := s.memQuirk } s
    ((s.afterLoads (x.toNat + 1)).autoIncrement x) := by
  have hreg : ∀ r, r ∉ (List.range (x.toNat + 1)).map regOf → (s.afterLoads (x.toNat + 1)).getV r = s.getV r := by
    intro r hr
    rw [s.getV_afterLoads _ (by omega), if_neg]
    exact fun hlt => hr (List.mem_map.2 ⟨r.toNat, List.mem_range.2 hlt, regOf_toNat r⟩)
  obtain ⟨w, hw⟩ := s.afterLoads_eq (x.toNat + 1)
  rw [hw] at hreg ⊢
  exact frame_of_parts _ _ _ (by simp +contextual; simpa using hreg)

end

/-! ### RET and CALL, the instructions with two outcomes of their own (R121, R123) -/

section
variable {s t : State} {nnn : Addr}

theorem exec_ret_cases (h : exec .ret s = .next t) :
    (s.stack = [] ∧ t = s) ∨ ∃ below a, s.stack = below ++ [a] ∧ t = s.dropTop.setPc a := by
  obtain hnil | ⟨below, a, hstack⟩ := List.eq_nil_or_concat s.stack
  · cases (exec_ret_of_stack_nil hnil).symm.trans h
    exact .inl ⟨hnil, rfl⟩
  · rw [List.concat_eq_append] at hstack
    cases (exec_ret_of_stack_append hstack).symm.trans h
    exact .inr ⟨below, a, hstack, rfl⟩

theorem exec_call_of_lt (h : s.stack.length < 16) (nnn : Addr) :
    exec (.call nnn) s = .next ((s.push s.pc).setPc nnn) := by
  rw [exec, execCall, if_pos h]

theorem exec_call_of_full (h : 16 ≤ s.stack.length) (nnn : Addr) :
    exec (.call nnn) s = .next (s.raise .stackOverflow) := by
  rw [exec, execCall, if_neg (Nat.not_lt.2 h)]

theorem exec_call_cases (h : exec (.call nnn) s = .next t) :
    (s.stack.length < 16 ∧ t = (s.push s.pc).setPc nnn) ∨ (16 ≤ s.stack.length ∧ t = s.raise .stackOverflow) := by
  obtain hlt | hfull := Nat.lt_or_ge s.stack.length 16
  · cases (exec_call_of_lt hlt nnn).symm.trans h
    exact .inl ⟨hlt, rfl⟩
  · cases (exec_call_of_full hfull nnn).symm.trans h
    exact .inr ⟨hfull, rfl⟩

end

/-! ### The frame of every instruction -/

/-- Whatever an instruction answers, it has changed nothing but what `changes` names. -/
theorem frame_of_exec {i : Instr} {s t : State} (h : exec i s = .next t) : Frame (changes s i) s t := by
  cases i
  case ret =>
    obtain ⟨-, rfl⟩ | ⟨below, a, -, rfl⟩ := exec_ret_cases h
    · exact frame_refl t _
    · exact frame_dropTop_setPc s a
  case call =>
    rw [changes]
    obtain ⟨hlt, rfl⟩ | ⟨hfull, rfl⟩ := exec_call_cases h
    · rw [if_pos hlt]; exact frame_push_setPc s _ _
    · rw [if_neg (Nat.not_lt.2 hfull)]; exact frame_raise s _
  case skp | sknp =>
    cases h
    rw [changes]
    split
    · next hfault => exact frame_skipOnKey_of_fault s hfault.1 hfault.2 _
    · next hpc => exact frame_skipOnKey s hpc _
  case cls => cases h; exact frame_setDisplay s _
  case jp | jpV0 => cases h; exact frame_setPc s _
  case seImm | sneImm | seReg | sneReg => cases h; exact frame_skipIf s _
  case ldImm | addImm | ldReg | orReg | andReg | xorReg | ldVxDT => cases h; exact frame_setV s _ _
  case addReg | subReg | subn | shr | shl => cases h; exact frame_setV_setV s (by simp) (by simp) _ _
  case rnd => cases h; exact frame_setV_consumeDraw s _ _
  case ldI | addI | ldF => cases h; exact frame_setI s _
  case drw => cases h; exact frame_setV_setDisplay_setV s _ _ _ _
  case ldVxK => cases h; exact frame_setWait s _
  case ldDTVx => cases h; exact frame_setDelay s _
  case ldSTVx => cases h; exact frame_setSound s _
  case ldB => cases h; exact frame_three_writes s _ _ _
  case storeRegs => cases h; exact frame_stores s _
  case loadRegs => cases h; exact frame_loads s _

theorem mem_skipOnKey (s : State) (x : Reg) (pressed : Bool) : (s.skipOnKey x pressed).mem = s.mem := by
  obtain ⟨c, hc⟩ | ⟨hc, -⟩ := s.skipOnKey_cases x pressed <;> simp [hc]

theorem mem_afterLoads (s : State) (n : Nat) : (s.afterLoads n).mem = s.mem := by
  obtain ⟨w, hw⟩ := s.afterLoads_eq n; rw [hw]

/-- Frames speak of the bytes of memory; as a list, too, memory is what it was unless the instruction stores (R108). -/
theorem mem_of_exec {i : Instr} {s t : State} (h : exec i s = .next t) :
    t.mem = s.mem ∨ ∃ x, i = .ldB x ∨ i = .storeRegs x := by
  cases i
  case ldB x => exact .inr ⟨x, .inl rfl⟩
  case storeRegs x => exact .inr ⟨x, .inr rfl⟩
  all_goals refine .inl ?_
  case ret => obtain ⟨-, rfl⟩ | ⟨below, a, -, rfl⟩ := exec_ret_cases h <;> rfl
  case call => obtain ⟨-, rfl⟩ | ⟨-, rfl⟩ := exec_call_cases h <;> rfl
  case seImm | sneImm | seReg | sneReg => cases h; exact s.skipIf_mem _
  case skp x | sknp x => cases h; exact mem_skipOnKey s x _
  case loadRegs x => cases h; exact (State.autoIncrement_mem _ x).trans (mem_afterLoads s _)
  all_goals cases h; rfl

/-! ### Which instructions change what -/

section
variable {i : Instr} {s : State}

theorem eq_of_changes_stack (h : (changes s i).stack = true) : i = .ret ∨ ∃ nnn, i = .call nnn := by
  cases i
  case ret => exact .inl rfl
  case call nnn => exact .inr ⟨nnn, rfl⟩
  case skp | sknp => rw [changes] at h; split at h <;> cases h
  all_goals cases h

theorem eq_of_changes_display (h : (changes s i).display = true) : i = .cls ∨ ∃ x y n, i = .drw x y n := by
  cases i
  case cls => exact .inl rfl
  case drw x y n => exact .inr ⟨x, y, n, rfl⟩
  case call | skp | sknp => rw [changes] at h; split at h <;> cases h
  all_goals cases h

theorem eq_of_changes_wait (h : (changes s i).wait = true) : ∃ x, i = .ldVxK x := by
  cases i
  case ldVxK x => exact ⟨x, rfl⟩
  case call | skp | sknp => rw [changes] at h; split at h <;> cases h
  all_goals cases h

theorem eq_of_changes_fault (h : (changes s i).fault = true) :
    (16 ≤ s.stack.length ∧ ∃ nnn, i = .call nnn) ∨
    (s.params.keyIndexPolicy = .fault ∧ ∃ x, 0xF < (s.getV x).toNat ∧ (i = .skp x ∨ i = .sknp x)) := by
  cases i
  case call nnn =>
    rw [changes] at h
    split at h
    · cases h
    · next hfull => exact .inl ⟨Nat.le_of_not_lt hfull, nnn, rfl⟩
  case skp x =>
    rw [changes] at h
    split at h
    · next hfault => exact .inr ⟨hfault.1, x, hfault.2, .inl rfl⟩
    · cases h
  case sknp x =>
    rw [changes] at h
    split at h
    · next hfault => exact .inr ⟨hfault.1, x, hfault.2, .inr rfl⟩
    · cases h
  all_goals cases h

end

end Sys2Proof.Proofs.Frames
end

section
/-! The invariant (10_state.md): canonical memory, the stack bound and the ROM bound hold after reset and are kept by
every instruction, every cycle and every host operation. -/

namespace Sys2Proof.Proofs.Invariant

open Sys2Proof.Machine
open Sys2Proof.Proofs.Frames (frame_of_exec mem_of_exec eq_of_changes_stack exec_ret_cases exec_call_cases)
open Sys2Proof.Proofs.Snapshot (restore_cases encodeSnapshot_of_decodeSnapshot)

/-! ### Instructions and cycles -/

section
variable {i : Instr} {s t : State}

theorem wf_mem_of_exec (h : exec i s = .next t) (hs : s.mem.wf = true) : t.mem.wf = true := by
  obtain hmem | ⟨x, rfl | rfl⟩ := mem_of_exec h
  · rw [hmem]; exact hs
  · cases h
    exact Memory.wf_write (Memory.wf_write (Memory.wf_write hs _ _) _ _) _ _
  · cases h
    rw [State.autoIncrement_mem]; exact s.wf_memAfterStores _ hs

theorem length_stack_of_ret (h : exec .ret s = .next t) : t.stack.length ≤ s.stack.length := by
  obtain ⟨-, rfl⟩ | ⟨below, a, -, rfl⟩ := exec_ret_cases h
  · exact Nat.le_refl _
  · simp

theorem length_stack_of_call {nnn : Addr} (h : exec (.call nnn) s = .next t) (hs : s.stack.length ≤ 16) :
    t.stack.length ≤ 16 := by
  obtain ⟨hlt, rfl⟩ | ⟨-, rfl⟩ := exec_call_cases h
  · simpa using hlt
  · exact hs

theorem length_stack_of_exec (h : exec i s = .next t) (hs : s.stack.length ≤ 16) : t.stack.length ≤ 16 := by
  cases hstack : (Frames.changes s i).stack with
  | false => rw [(frame_of_exec h).stack hstack]; exact hs
  | true =>
    obtain rfl | ⟨nnn, rfl⟩ := eq_of_changes_stack hstack
    · exact (length_stack_of_ret h).trans hs
    · exact length_stack_of_call h hs

theorem romBytes_congr (h : t.rom = s.rom) : t.romBytes = s.romBytes := by rw [State.romBytes, h, State.romBytes]

theorem inv_of_exec (h : exec i s = .next t) (hs : s.Inv) : t.Inv := by
  obtain ⟨hmem, hstack, hrom⟩ := hs
  refine ⟨wf_mem_of_exec h hmem, length_stack_of_exec h hstack, ?_⟩
  rw [romBytes_congr (frame_of_exec h).rom]; exact hrom

/-- A poll writes a register and the wait state at most, and the invariant reads neither. -/
theorem inv_poll (r : Reg) (hs : s.Inv) : (s.poll r).Inv := by
  obtain h | ⟨k, h⟩ := s.poll_cases r <;> rw [h] <;> exact hs

theorem inv_of_step (h : step s = .next t) (hs : s.Inv) : t.Inv := by
  obtain ⟨-, rfl⟩ | ⟨r, -, -, rfl⟩ | ⟨-, -, rfl⟩ | ⟨-, i, -, hexec⟩ := step_cases h
  · exact hs
  · exact inv_poll r hs
  · exact hs
  · exact inv_of_exec hexec hs

theorem inv_of_cycle {d : Byte} {q : CycleResult × State} (h : cycle d s = .next q) (hs : s.Inv) : q.2.Inv := by
  rw [cycle] at h
  split at h <;> cases h
  next t ht =>
    have hdraw : (s.setDraw (some d)).Inv := hs
    have ht : t.Inv := inv_of_step ht hdraw
    exact ht

end

/-! ### Host operations -/

section
variable {s : State}

theorem inv_hardReset (s : State) : (hardReset s).Inv :=
  ⟨Memory.wf_writeBytes _ rfl _, Nat.zero_le _, Nat.zero_le _⟩

theorem inv_softReset (hmem : s.mem.wf = true) (hrom : s.romBytes.length ≤ 3584) : (softReset s).Inv :=
  ⟨Memory.wf_writeBytes _ (Memory.wf_clearProgram hmem) _, Nat.zero_le _, hrom⟩

theorem inv_loadRom (bytes : List Byte) (hs : s.Inv) : (loadRom bytes s).2.Inv := by
  rw [loadRom]
  split
  · next hfit =>
    have hlen : 0x200 + bytes.length ≤ 4096 := of_decide_eq_true hfit
    have hlen : bytes.length ≤ 3584 := by omega
    exact inv_softReset hs.1 hlen
  · exact hs

theorem inv_restore (c : Codec) (b : List Byte) (hs : s.Inv) : (restore c b s).2.Inv := by
  obtain ⟨p, t, -, ht, hok⟩ | hinvalid := restore_cases c b s
  · rw [hok]; exact (encodeSnapshot_of_decodeSnapshot ht).1
  · rw [hinvalid]; exact hs

theorem inv_of_apply {c : Codec} {o : HostOp} {q : HostResult × State} (h : o.apply c s = .next q) (hs : s.Inv) :
    q.2.Inv := by
  obtain ⟨hmem, hstack, hrom⟩ := hs
  cases o with
  | reset hard =>
    cases h
    cases hard
    · exact inv_softReset hmem hrom
    · exact inv_hardReset s
  | loadRom bytes => cases h; exact inv_loadRom bytes ⟨hmem, hstack, hrom⟩
  | cycle r =>
    rw [HostOp.apply] at h
    split at h <;> cases h
    next q hq => exact inv_of_cycle hq ⟨hmem, hstack, hrom⟩
  | restore b => cases h; exact inv_restore c b ⟨hmem, hstack, hrom⟩
  | tickTimers | setKey | readFramebuffer | takeDrawFlag | setQuirks | snapshot => cases h; exact ⟨hmem, hstack, hrom⟩

theorem inv_of_runHost {c : Codec} {os : List HostOp} {t : State} (h : runHost c os s = .next t) (hs : s.Inv) :
    t.Inv := by
  induction os generalizing s with
  | nil => cases h; exact hs
  | cons o os ih =>
    rw [runHost] at h
    split at h
    · next q hq => exact ih h (inv_of_apply hq hs)
    · cases h
    · cases h

end

/-! ### The obligations -/

/-- Settles O56: the state after reset has the empty memory list, an empty stack and no ROM. -/
theorem resetStateMeetsInvariant : Obligations.ResetStateMeetsInvariant :=
  ⟨rfl, Nat.zero_le _, Nat.zero_le _⟩

/-- Settles O57, by the cases of a step. -/
theorem everyStepKeepsInvariant : Obligations.EveryStepKeepsInvariant :=
  fun _ _ hs h => inv_of_step h hs

/-- Settles O58: a construction ends in a hard reset, and every operation of a run keeps the invariant. -/
theorem everyHostOperationKeepsInvariant : Obligations.EveryHostOperationKeepsInvariant :=
  ⟨fun _ _ _ _ hs h => inv_of_apply h hs, fun _ _ _ _ _ _ h => inv_of_runHost h (inv_hardReset _)⟩

end Sys2Proof.Proofs.Invariant
end

section
/-! The opcode table of R85: the decoder accepts the words that a row matches and no others, no word matches two rows,
and the words written out from the patterns decode as the table says. -/

namespace Sys2Proof.Proofs.OpcodeTable

open Sys2Proof.Machine Sys2Proof.Proofs.Encoding
open Sys2Proof.Proofs.ControlFlow (word_nnn_of_and_F000 decodeWord_ret_of_and)
open Sys2Proof.Proofs.RegisterAlu (word_kk_of_and_F000 word_n_of_and_F00F)
open Sys2Proof.Proofs.IndexMemory (word_kk_of_and_F0FF)
open Sys2Proof.Proofs.Display (decodeWord_cls_of_and)

/-! ### Every instruction's word is one of its own row -/

open Laws.EncodesRow in
/-- The laws of `EncodesRow`, one for each instruction, together. -/
theorem encodesRow : (i : Instr) → Statement i
  | .cls => cls | .ret => ret | .jp nnn => jp nnn | .call nnn => call nnn | .seImm x kk => seImm x kk
  | .sneImm x kk => sneImm x kk | .seReg x y => seReg x y | .ldImm x kk => ldImm x kk | .addImm x kk => addImm x kk
  | .ldReg x y => ldReg x y | .orReg x y => orReg x y | .andReg x y => andReg x y | .xorReg x y => xorReg x y
  | .addReg x y => addReg x y | .subReg x y => subReg x y | .shr x y => shr x y | .subn x y => subn x y
  | .shl x y => shl x y | .sneReg x y => sneReg x y | .ldI nnn => ldI nnn | .jpV0 nnn => jpV0 nnn
  | .rnd x kk => rnd x kk | .drw x y n => drw x y n | .skp x => skp x | .sknp x => sknp x | .ldVxDT x => ldVxDT x
  | .ldVxK x => ldVxK x | .ldDTVx x => ldDTVx x | .ldSTVx x => ldSTVx x | .addI x => addI x | .ldF x => ldF x
  | .ldB x => ldB x | .storeRegs x => storeRegs x | .loadRegs x => loadRegs x

/-! ### Every word of a row decodes -/

/-- The words of these rows all decode. -/
abbrev Decodes (rows : List OpcodeRow) : Prop :=
  ∀ r ∈ rows, ∀ op : Word, op &&& r.mask = r.pattern → ∃ i, decodeWord op = .ok i

theorem decodes_append {rows more : List OpcodeRow} (h : Decodes rows) (h' : Decodes more) : Decodes (rows ++ more) :=
  List.forall_mem_append.2 ⟨h, h'⟩

theorem exists_decodeWord_of_encode {op : Word} {i : Instr} (h : encode i = op) : ∃ i, decodeWord op = .ok i :=
  ⟨i, decodeWord_eq_ok_iff.2 h⟩

theorem word_n_of_and_F000 {op : Word} {f : BitVec 4} (h : op &&& 0xF000#16 = (f ++ 0#12 : Word)) :
    (f ++ opX op ++ opY op ++ opN op : Word) = op :=
  word_n_of_opFamily (congrArg BitVec.toNat ((and_F000_iff f op).1 h))

theorem decodes_rows0to5 : Decodes rows0to5 := by
  simp only [Decodes, rows0to5, List.forall_mem_cons]
  refine ⟨?cls, ?ret, ?jp, ?call, ?seImm, ?sneImm, ?seReg, List.forall_mem_nil _⟩ <;> intro op h
  case cls => exact ⟨_, decodeWord_cls_of_and h⟩
  case ret => exact ⟨_, decodeWord_ret_of_and h⟩
  case jp => exact exists_decodeWord_of_encode (i := .jp _) (word_nnn_of_and_F000 h)
  case call => exact exists_decodeWord_of_encode (i := .call _) (word_nnn_of_and_F000 h)
  case seImm => exact exists_decodeWord_of_encode (i := .seImm _ _) (word_kk_of_and_F000 h)
  case sneImm => exact exists_decodeWord_of_encode (i := .sneImm _ _) (word_kk_of_and_F000 h)
  case seReg => exact exists_decodeWord_of_encode (i := .seReg _ _) (word_n_of_and_F00F h)

theorem decodes_rows6to7 : Decodes rows6to7 := by
  simp only [Decodes, rows6to7, List.forall_mem_cons]
  refine ⟨?ldImm, ?addImm, List.forall_mem_nil _⟩ <;> intro op h
  case ldImm => exact exists_decodeWord_of_encode (i := .ldImm _ _) (word_kk_of_and_F000 h)
  case addImm => exact exists_decodeWord_of_encode (i := .addImm _ _) (word_kk_of_and_F000 h)

theorem decodes_rows8 : Decodes rows8 := by
  simp only [Decodes, rows8, List.forall_mem_cons]
  refine ⟨?ldReg, ?orReg, ?andReg, ?xorReg, ?addReg, ?subReg, ?shr, ?subn, ?shl, List.forall_mem_nil _⟩ <;> intro op h
  case ldReg => exact exists_decodeWord_of_encode (i := .ldReg _ _) (word_n_of_and_F00F h)
  case orReg => exact exists_decodeWord_of_encode (i := .orReg _ _) (word_n_of_and_F00F h)
  case andReg => exact exists_decodeWord_of_encode (i := .andReg _ _) (word_n_of_and_F00F h)
  case xorReg => exact exists_decodeWord_of_encode (i := .xorReg _ _) (word_n_of_and_F00F h)
  case addReg => exact exists_decodeWord_of_encode (i := .addReg _ _) (word_n_of_and_F00F h)
  case subReg => exact exists_decodeWord_of_encode (i := .subReg _ _) (word_n_of_and_F00F h)
  case shr => exact exists_decodeWord_of_encode (i := .shr _ _) (word_n_of_and_F00F h)
  case subn => exact exists_decodeWord_of_encode (i := .subn _ _) (word_n_of_and_F00F h)
  case shl => exact exists_decodeWord_of_encode (i := .shl _ _) (word_n_of_and_F00F h)

theorem decodes_rows9toE : Decodes rows9toE := by
  simp only [Decodes, rows9toE, List.forall_mem_cons]
  refine ⟨?sneReg, ?ldI, ?jpV0, ?rnd, ?drw, ?skp, ?sknp, List.forall_mem_nil _⟩ <;> intro op h
  case sneReg => exact exists_decodeWord_of_encode (i := .sneReg _ _) (word_n_of_and_F00F h)
  case ldI => exact exists_decodeWord_of_encode (i := .ldI _) (word_nnn_of_and_F000 h)
  case jpV0 => exact exists_decodeWord_of_encode (i := .jpV0 _) (word_nnn_of_and_F000 h)
  case rnd => exact exists_decodeWord_of_encode (i := .rnd _ _) (word_kk_of_and_F000 h)
  case drw => exact exists_decodeWord_of_encode (i := .drw _ _ _) (word_n_of_and_F000 h)
  case skp => exact exists_decodeWord_of_encode (i := .skp _) (word_kk_of_and_F0FF h)
  case sknp => exact exists_decodeWord_of_encode (i := .sknp _) (word_kk_of_and_F0FF h)

theorem decodes_rowsF : Decodes rowsF := by
  simp only [Decodes, rowsF, List.forall_mem_cons]
  refine ⟨?ldVxDT, ?ldVxK, ?ldDTVx, ?ldSTVx, ?addI, ?ldF, ?ldB, ?storeRegs, ?loadRegs,
    List.forall_mem_nil _⟩ <;> intro op h
  case ldVxDT => exact exists_decodeWord_of_encode (i := .ldVxDT _) (word_kk_of_and_F0FF h)
  case ldVxK => exact exists_decodeWord_of_encode (i := .ldVxK _) (word_kk_of_and_F0FF h)
  case ldDTVx => exact exists_decodeWord_of_encode (i := .ldDTVx _) (word_kk_of_and_F0FF h)
  case ldSTVx => exact exists_decodeWord_of_encode (i := .ldSTVx _) (word_kk_of_and_F0FF h)
  case addI => exact exists_decodeWord_of_encode (i := .addI _) (word_kk_of_and_F0FF h)
  case ldF => exact exists_decodeWord_of_encode (i := .ldF _) (word_kk_of_and_F0FF h)
  case ldB => exact exists_decodeWord_of_encode (i := .ldB _) (word_kk_of_and_F0FF h)
  case storeRegs => exact exists_decodeWord_of_encode (i := .storeRegs _) (word_kk_of_and_F0FF h)
  case loadRegs => exact exists_decodeWord_of_encode (i := .loadRegs _) (word_kk_of_and_F0FF h)

/-- Every word that a row of the table matches decodes (R85). -/
theorem decodes_opcodeTable : Decodes opcodeTable :=
  decodes_append (decodes_append (decodes_append (decodes_append decodes_rows0to5 decodes_rows6to7) decodes_rows8)
    decodes_rows9toE) decodes_rowsF

/-! ### What is rejected -/

section
variable {op : Word} {e : DecodeError}

theorem eq_unknownOpcode_of_decodeFamily8 (h : decodeFamily8 op = .error e) : e = .unknownOpcode op := by
  unfold decodeFamily8 at h
  split at h <;> cases h
  rfl

theorem eq_unknownOpcode_of_decodeFamilyE (h : decodeFamilyE op = .error e) : e = .unknownOpcode op := by
  unfold decodeFamilyE at h
  split at h <;> cases h
  rfl

theorem eq_unknownOpcode_of_decodeFamilyF (h : decodeFamilyF op = .error e) : e = .unknownOpcode op := by
  unfold decodeFamilyF at h
  split at h <;> cases h
  rfl

/-- The decoder rejects a word by name and for no other reason (R87). As in `encode_of_decodeWord`, `h_1` is family
0x0 and `h_17` is no family. -/
theorem eq_unknownOpcode_of_decodeWord (h : decodeWord op = .error e) : e = .unknownOpcode op := by
  unfold decodeWord at h
  split at h
  case h_1 | h_6 | h_10 => split_ifs at h; cases h; rfl
  case h_9 => exact eq_unknownOpcode_of_decodeFamily8 h
  case h_15 => exact eq_unknownOpcode_of_decodeFamilyE h
  case h_16 => exact eq_unknownOpcode_of_decodeFamilyF h
  case h_17 => cases h; rfl
  all_goals cases h

end

/-- A word that decodes is matched by the row of the instruction it decodes to, and that row is in the table. -/
theorem row_matches_of_decodeWord {op : Word} {i : Instr} (h : decodeWord op = .ok i) :
    i.row ∈ opcodeTable ∧ op &&& i.row.mask = i.row.pattern :=
  encode_of_decodeWord h ▸ encodesRow i

/-! ### No word matches two rows -/

/-- Two different rows ask for different digits at some place that both fix. -/
theorem rows_differ_at_common_digits : ∀ r ∈ opcodeTable, ∀ q ∈ opcodeTable,
    r.pattern &&& q.mask = q.pattern &&& r.mask → r = q := by decide

/-! ### The obligations -/

/-- Settles O1: each word is read by the decoder. -/
theorem writtenOutWordsDecode : Obligations.WrittenOutWordsDecode := by
  unfold Obligations.WrittenOutWordsDecode; decide

/-- Settles O4: a word that decodes is the word of its instruction, which its row matches, and every word of a row
decodes. -/
theorem decoderFollowsOpcodeTable : Obligations.DecoderFollowsOpcodeTable := by
  refine ⟨fun op => ⟨?_, ?_⟩, fun op i => row_matches_of_decodeWord, fun op e => eq_unknownOpcode_of_decodeWord⟩
  · rintro ⟨i, hi⟩
    exact ⟨i.row, row_matches_of_decodeWord hi⟩
  · rintro ⟨r, hr, h⟩
    exact decodes_opcodeTable r hr op h

/-- Settles O5: a word that two rows match has, at the digits that both fix, the digits of both. -/
theorem opcodeRowsAreDisjoint : Obligations.OpcodeRowsAreDisjoint := by
  refine ⟨rfl, fun op r hr q hq h h' => rows_differ_at_common_digits r hr q hq ?_⟩
  rw [← h, ← h', BitVec.and_assoc, BitVec.and_assoc, BitVec.and_comm r.mask]

end Sys2Proof.Proofs.OpcodeTable
end

section
/-! CALL and the skips (41_control_flow.md): CALL pushes or overflows, the skips on registers move PC, and as many
RETs as nested CALLs come back. -/

namespace Sys2Proof.Proofs.CallsAndSkips

open Sys2Proof.Machine Sys2Proof.Proofs.Encoding
open Sys2Proof.Proofs.ControlFlow (word_nnn_of_and_F000 exec_ret_of_stack_append)
open Sys2Proof.Proofs.RegisterAlu (word_kk_of_and_F000 word_n_of_and_F00F)
open Sys2Proof.Proofs.Frames (frame_push_setPc frame_raise frame_of_exec exec_call_of_lt exec_call_of_full)

/-! ### The meanings (R124 to R127) -/

theorem exec_seImm (x : Reg) (kk : Byte) (s : State) :
    exec (.seImm x kk) s = .next (s.skipIf (decide (s.getV x = kk))) := rfl

theorem exec_sneImm (x : Reg) (kk : Byte) (s : State) :
    exec (.sneImm x kk) s = .next (s.skipIf (decide (s.getV x ≠ kk))) := rfl

theorem exec_seReg (x y : Reg) (s : State) :
    exec (.seReg x y) s = .next (s.skipIf (decide (s.getV x = s.getV y))) := rfl

theorem exec_sneReg (x y : Reg) (s : State) :
    exec (.sneReg x y) s = .next (s.skipIf (decide (s.getV x ≠ s.getV y))) := rfl

/-- A skip moves PC by 2 and wraps at 4096 (D5). -/
theorem toNat_pc_skipIf (s : State) (c : Bool) :
    (s.skipIf c).pc.toNat = if c = true then (s.pc.toNat + 2) % 4096 else s.pc.toNat := by
  rw [State.skipIf_pc, apply_ite BitVec.toNat, BitVec.toNat_add]; rfl

/-! ### The words that are no instruction (D24) -/

theorem decodeWord_of_opN_ne_zero {op : Word} (hf : opFamily op = 0x5#4 ∨ opFamily op = 0x9#4) (hn : opN op ≠ 0#4) :
    decodeWord op = .error (.unknownOpcode op) := by
  obtain hf | hf := hf <;> rw [decodeWord, hf] <;> exact if_neg hn

/-! ### Nested calls -/

theorem execAll_append {is js : List Instr} {s t : State} (h : execAll is s = .next t) :
    execAll (is ++ js) s = execAll js t := by
  induction is generalizing s with
  | nil => cases h; rfl
  | cons i is ih =>
    rw [execAll] at h
    split at h
    · next u hu => rw [List.cons_append, execAll, hu]; exact ih h
    · cases h
    · cases h

/-- A RET right after a CALL undoes it: PC and the stack are the only elements either writes. -/
theorem exec_ret_push_setPc (s : State) (nnn : Addr) : exec .ret ((s.push s.pc).setPc nnn) = .next s := by
  rw [exec_ret_of_stack_append (below := s.stack) (a := s.pc) rfl]
  simp only [State.dropTop, State.setPc, State.push, List.dropLast_concat]

/-- The innermost CALL of a nest is undone first, by induction on the nest from the outside in. -/
theorem execAll_calls_rets (targets : List Addr) (s : State) (h : s.stack.length + targets.length ≤ 16) :
    execAll (targets.map .call ++ List.replicate targets.length .ret) s = .next s := by
  induction targets generalizing s with
  | nil => rfl
  | cons nnn targets ih =>
    simp only [List.length_cons] at h
    have hinner : execAll (targets.map .call ++ List.replicate targets.length .ret) ((s.push s.pc).setPc nnn) =
        .next ((s.push s.pc).setPc nnn) := ih _ (by simp; omega)
    rw [List.length_cons, List.replicate_succ', ← List.append_assoc, List.map_cons, List.cons_append, List.cons_append,
      execAll, exec_call_of_lt (by omega)]
    exact (execAll_append hinner).trans (by simp only [execAll, exec_ret_push_setPc])

/-! ### The obligations -/

/-- Settles O8: below 16 entries CALL is a push and a jump, at 16 it raises the fault. -/
theorem callPushesOrOverflows : Obligations.CallPushesOrOverflows := by
  refine ⟨fun _ h => decodeWord_eq_ok_iff.2 (word_nnn_of_and_F000 h), fun nnn s h => ?_, fun nnn s h => ?_⟩
  · exact ⟨_, exec_call_of_lt h nnn, rfl, rfl, frame_push_setPc s s.pc nnn⟩
  · exact ⟨_, exec_call_of_full (Nat.le_of_eq h.symm) nnn, rfl, frame_raise s _⟩

/-- Settles O9: each is one `skipIf` of its comparison. -/
theorem skipsOnByteComparison : Obligations.SkipsOnByteComparison := by
  refine ⟨fun _ h => decodeWord_eq_ok_iff.2 (word_kk_of_and_F000 h),
    fun _ h => decodeWord_eq_ok_iff.2 (word_kk_of_and_F000 h), fun x kk s => ?_, fun x kk s => ?_⟩
  · exact ⟨_, exec_seImm x kk s, by simp only [toNat_pc_skipIf, decide_eq_true_eq], frame_of_exec (exec_seImm x kk s)⟩
  · exact ⟨_, exec_sneImm x kk s, by simp only [toNat_pc_skipIf, decide_eq_true_eq, ite_not],
      frame_of_exec (exec_sneImm x kk s)⟩

/-- Settles O10: each is one `skipIf` of its comparison, and in both families the low nibble must be 0. -/
theorem skipsOnRegisterComparison : Obligations.SkipsOnRegisterComparison := by
  refine ⟨fun _ h => decodeWord_eq_ok_iff.2 (word_n_of_and_F00F h),
    fun _ h => decodeWord_eq_ok_iff.2 (word_n_of_and_F00F h), fun _ => decodeWord_of_opN_ne_zero, fun x y s => ?_,
    fun x y s => ?_⟩
  · exact ⟨_, exec_seReg x y s, by simp only [toNat_pc_skipIf, decide_eq_true_eq], frame_of_exec (exec_seReg x y s)⟩
  · exact ⟨_, exec_sneReg x y s, by simp only [toNat_pc_skipIf, decide_eq_true_eq, ite_not],
      frame_of_exec (exec_sneReg x y s)⟩

/-- Settles O11, by `execAll_calls_rets`. -/
theorem balancedCallsAndReturnsRestoreState : Obligations.BalancedCallsAndReturnsRestoreState :=
  execAll_calls_rets

end Sys2Proof.Proofs.CallsAndSkips
end

section
/-! Flag instructions and RND (42_register_alu.md): two register writes of which the later wins when x = F, and the
masked draw. -/

namespace Sys2Proof.Proofs.FlagInstructions

open Sys2Proof.Machine Sys2Proof.Proofs.Encoding
open Sys2Proof.Proofs.RegisterAlu (word_kk_of_and_F000 word_n_of_and_F00F getV_setV_self)
open Sys2Proof.Proofs.Frames (frame_of_exec)

/-! ### The meanings (R147 to R152) -/

theorem exec_addReg (x y : Reg) (s : State) : exec (.addReg x y) s =
    .next ((s.setV x (s.getV x + s.getV y)).setV regF (carryFlag (s.getV x) (s.getV y))) := rfl

theorem exec_subReg (x y : Reg) (s : State) : exec (.subReg x y) s =
    .next ((s.setV x (s.getV x - s.getV y)).setV regF (notBorrowFlag (s.getV x) (s.getV y))) := rfl

theorem exec_subn (x y : Reg) (s : State) : exec (.subn x y) s =
    .next ((s.setV x (s.getV y - s.getV x)).setV regF (notBorrowFlag (s.getV y) (s.getV x))) := rfl

theorem exec_shr (x y : Reg) (s : State) : exec (.shr x y) s =
    .next ((s.setV regF (shiftedOutRight (s.shiftSource x y))).setV x (s.shiftSource x y >>> 1)) := rfl

theorem exec_shl (x y : Reg) (s : State) : exec (.shl x y) s =
    .next ((s.setV regF (shiftedOutLeft (s.shiftSource x y))).setV x (s.shiftSource x y <<< 1)) := rfl

theorem exec_rnd (x : Reg) (kk : Byte) (s : State) :
    exec (.rnd x kk) s = .next (s.setV x (s.nextDraw &&& kk)).consumeDraw := rfl

/-! ### Flags and results as numbers -/

theorem carryFlag_eq (a b : Byte) : carryFlag a b = if 255 < a.toNat + b.toNat then 1#8 else 0#8 := by
  simp only [carryFlag, flagByte, gt_iff_lt, decide_eq_true_eq]

theorem notBorrowFlag_eq (a b : Byte) : notBorrowFlag a b = if a.toNat < b.toNat then 0#8 else 1#8 := by
  simp only [notBorrowFlag, flagByte, decide_eq_true_eq, ite_not]

/-- The difference modulo 256, as the integer one. -/
theorem toNat_sub_byte (a b : Byte) : ((a - b).toNat : Int) = ((a.toNat : Int) - b.toNat) % 256 := by
  rw [BitVec.toNat_sub]
  have := a.isLt
  have := b.isLt
  omega

theorem toNat_shiftedOutRight (b : Byte) : (shiftedOutRight b).toNat = b.toNat % 2 := by
  rw [shiftedOutRight, BitVec.toNat_and]; exact Nat.and_one_is_mod b.toNat

theorem toNat_shiftedOutLeft (b : Byte) : (shiftedOutLeft b).toNat = b.toNat / 128 := by
  rw [shiftedOutLeft, BitVec.toNat_and, BitVec.toNat_ushiftRight, Nat.shiftRight_eq_div_pow]
  refine (Nat.and_one_is_mod _).trans (Nat.mod_eq_of_lt ?_)
  have := b.isLt
  omega

theorem toNat_ushiftRight_one (b : Byte) : (b >>> 1).toNat = b.toNat / 2 := by
  rw [BitVec.toNat_ushiftRight, Nat.shiftRight_eq_div_pow, Nat.pow_one]

theorem toNat_shiftLeft_one (b : Byte) : (b <<< 1).toNat = b.toNat * 2 % 256 := by
  rw [BitVec.toNat_shiftLeft, Nat.shiftLeft_eq, Nat.pow_one]

/-! ### The later of two register writes wins -/

theorem getV_setV_setV_of_ne (s : State) {x y : Reg} (h : x ≠ y) (b c : Byte) : ((s.setV x b).setV y c).getV x = b := by
  rw [State.getV_setV, if_neg h, getV_setV_self]

/-! ### The obligations -/

/-- Settles O14: the carry is the later write. -/
theorem addWritesSumAndCarry : Obligations.AddWritesSumAndCarry := by
  refine ⟨fun _ h => decodeWord_eq_ok_iff.2 (word_n_of_and_F00F h), fun x y s =>
    ⟨_, exec_addReg x y s, fun hx => ?_, ?_, frame_of_exec (exec_addReg x y s)⟩⟩
  · rw [getV_setV_setV_of_ne s hx, BitVec.toNat_add]
  · rw [getV_setV_self, carryFlag_eq]

/-- Settles O15: the not-borrow flag is the later write. -/
theorem subtractionsWriteDifferenceAndNotBorrow : Obligations.SubtractionsWriteDifferenceAndNotBorrow := by
  refine ⟨fun _ h => decodeWord_eq_ok_iff.2 (word_n_of_and_F00F h),
    fun _ h => decodeWord_eq_ok_iff.2 (word_n_of_and_F00F h), fun x y s =>
    ⟨_, exec_subReg x y s, fun hx => ?_, ?_, frame_of_exec (exec_subReg x y s)⟩, fun x y s =>
    ⟨_, exec_subn x y s, fun hx => ?_, ?_, frame_of_exec (exec_subn x y s)⟩⟩
  · rw [getV_setV_setV_of_ne s hx, toNat_sub_byte]
  · rw [getV_setV_self, notBorrowFlag_eq]
  · rw [getV_setV_setV_of_ne s hx, toNat_sub_byte]
  · rw [getV_setV_self, notBorrowFlag_eq]

/-- Settles O16: the result is the later write. -/
theorem shiftRightFollowsQuirk : Obligations.ShiftRightFollowsQuirk := by
  refine ⟨fun _ h => decodeWord_eq_ok_iff.2 (word_n_of_and_F00F h), fun x y s src hsrc =>
    ⟨_, exec_shr x y s, ?_, fun hx => ?_, frame_of_exec (exec_shr x y s)⟩⟩
  all_goals rw [show s.shiftSource x y = src from hsrc.symm]
  · rw [getV_setV_self, toNat_ushiftRight_one]
  · rw [getV_setV_setV_of_ne s hx.symm, toNat_shiftedOutRight]

/-- Settles O17: the result is the later write. -/
theorem shiftLeftFollowsQuirk : Obligations.ShiftLeftFollowsQuirk := by
  refine ⟨fun _ h => decodeWord_eq_ok_iff.2 (word_n_of_and_F00F h), fun x y s src hsrc =>
    ⟨_, exec_shl x y s, ?_, fun hx => ?_, frame_of_exec (exec_shl x y s)⟩⟩
  all_goals rw [show s.shiftSource x y = src from hsrc.symm]
  · rw [getV_setV_self, toNat_shiftLeft_one]
  · rw [getV_setV_setV_of_ne s hx.symm, toNat_shiftedOutLeft]

/-- Settles O18: Vx is the draw, whichever it is, masked with kk. -/
theorem randomByteIsMasked : Obligations.RandomByteIsMasked := by
  refine ⟨fun _ h => decodeWord_eq_ok_iff.2 (word_kk_of_and_F000 h), fun x kk s =>
    ⟨_, exec_rnd x kk s, fun r hr => ?_, fun hnone => ?_, fun j hj => ?_, frame_of_exec (exec_rnd x kk s)⟩⟩
  all_goals rw [State.consumeDraw_getV, getV_setV_self]
  · rw [State.nextDraw, hr, Option.getD_some]
  · rw [State.nextDraw, hnone, Option.getD_none]
  · rw [BitVec.getLsbD_and, hj, Bool.and_false]

end Sys2Proof.Proofs.FlagInstructions
end

section
/-! Memory accesses (20_memory.md) and the register stores and loads of Fx55 and Fx65 (43_index_memory.md), and the
fetch from bytes just stored. -/

namespace Sys2Proof.Proofs.RegisterTransfer

open Sys2Proof.Machine Sys2Proof.Proofs.Encoding
open Sys2Proof.Proofs.IndexMemory (word_kk_of_and_F0FF)
open Sys2Proof.Proofs.Frames (frame_of_exec)

/-! ### The meanings (R174, R175) -/

theorem exec_storeRegs (x : Reg) (s : State) : exec (.storeRegs x) s =
    .next ((s.setMem (s.memAfterStores (x.toNat + 1))).autoIncrement x) := rfl

theorem exec_loadRegs (x : Reg) (s : State) : exec (.loadRegs x) s =
    .next ((s.afterLoads (x.toNat + 1)).autoIncrement x) := rfl

/-- I moves past the accessed bytes and wraps at 4096, exactly under `mem_quirk` (D6). -/
theorem toNat_i_autoIncrement (s : State) (x : Reg) : (s.autoIncrement x).i.toNat =
    if s.memQuirk = true then (s.i.toNat + x.toNat + 1) % 4096 else s.i.toNat := by
  rw [State.autoIncrement_i, apply_ite BitVec.toNat, BitVec.toNat_add, BitVec.toNat_add,
    BitVec.toNat_setWidth_of_le (by decide), Nat.mod_add_mod]
  rfl

theorem toNat_i_autoIncrement_afterLoads (s : State) (n : Nat) (x : Reg) : ((s.afterLoads n).autoIncrement x).i.toNat =
    if s.memQuirk = true then (s.i.toNat + x.toNat + 1) % 4096 else s.i.toNat := by
  obtain ⟨w, hw⟩ := s.afterLoads_eq n
  rw [toNat_i_autoIncrement, hw]

/-! ### Memory after the stores -/

theorem read_storeRegs {s t : State} {x r : Reg} (h : exec (.storeRegs x) s = .next t) (hr : r.toNat ≤ x.toNat) :
    t.mem.read (s.indexAddr r.toNat) = s.getV r := by
  cases h
  rw [State.autoIncrement_mem, State.setMem_mem, s.read_memAfterStores _ _ (by omega) (by omega), regOf_toNat]

theorem write_mod (m : Memory) (a : Nat) (w : Byte) : m.write (a % 4096) w = m.write a w := by
  rw [Memory.write, Nat.mod_mod, Memory.write]

/-- A fetch at I + k, wrapped at 4096, reads the bytes at I + k and I + k + 1 (R61, R104). -/
theorem fetchWord_setPc_indexAddr (s t : State) (k : Reg) : (t.setPc (s.i + k.setWidth 12)).fetchWord =
    wordOfBytes (t.mem.read (s.indexAddr k.toNat)) (t.mem.read (s.indexAddr (k.toNat + 1))) := by
  have hpc : (s.i + k.setWidth 12).toNat = s.indexAddr k.toNat % 4096 := by
    rw [BitVec.toNat_add, BitVec.toNat_setWidth_of_le (by decide)]; rfl
  have hnext : t.mem.read (s.indexAddr k.toNat % 4096 + 1) = t.mem.read (s.indexAddr (k.toNat + 1)) := by
    rw [← Memory.read_mod, Nat.mod_add_mod, Memory.read_mod]; rfl
  rw [State.fetchWord, State.setPc_mem, State.setPc_pc, hpc, Memory.read_mod, hnext]

/-! ### The obligations -/

/-- Settles O21: no register's store reaches another's cell, by `read_memAfterStores`. -/
theorem storeRegistersToMemory : Obligations.StoreRegistersToMemory :=
  ⟨fun _ h => decodeWord_eq_ok_iff.2 (word_kk_of_and_F0FF h), fun x s =>
    ⟨_, exec_storeRegs x s, fun _ hr => read_storeRegs (exec_storeRegs x s) hr, toNat_i_autoIncrement _ x,
      frame_of_exec (exec_storeRegs x s)⟩⟩

/-- Settles O22: the loads write registers only, so every one reads the old memory. -/
theorem loadRegistersFromMemory : Obligations.LoadRegistersFromMemory := by
  refine ⟨fun _ h => decodeWord_eq_ok_iff.2 (word_kk_of_and_F0FF h), fun x s =>
    ⟨_, exec_loadRegs x s, fun r => ?_, toNat_i_autoIncrement_afterLoads s _ x, frame_of_exec (exec_loadRegs x s)⟩⟩
  rw [State.autoIncrement_getV, s.getV_afterLoads _ (by omega)]
  simp only [Nat.lt_succ_iff]

/-- Settles O23, by the laws of memory: the address of an access is taken modulo 4096 before it is used. -/
theorem accessesAreMaskedAndPrecise : Obligations.AccessesAreMaskedAndPrecise :=
  ⟨fun m a b w => m.read_write a b w, fun m a w => ⟨m.read_mod a, write_mod m a w⟩,
    fun _ a w h => Memory.wf_write h a w⟩

/-- Settles O24: with k below x both fetched bytes are among the stored ones. -/
theorem fetchSeesStoredRegisters : Obligations.FetchSeesStoredRegisters := by
  intro x k s t hk h
  have hsucc : (k + 1#4).toNat = k.toNat + 1 := by
    rw [BitVec.toNat_add]; exact Nat.mod_eq_of_lt (by have := x.isLt; simp; omega)
  have hlo : t.mem.read (s.indexAddr (k.toNat + 1)) = s.getV (k + 1#4) := hsucc ▸ read_storeRegs h (by omega)
  rw [fetchWord_setPc_indexAddr, read_storeRegs h (by omega), hlo]
  rfl

end Sys2Proof.Proofs.RegisterTransfer
end

section
/-! DRW (44_display.md): what one sprite does to the pixels and to VF, that it visits no pixel twice, and that a
second draw undoes the first. -/

namespace Sys2Proof.Proofs.Sprites

open Sys2Proof.Machine Sys2Proof.Proofs.Encoding
open Sys2Proof.Proofs.RegisterAlu (getV_setV_self)
open Sys2Proof.Proofs.OpcodeTable (word_n_of_and_F000)
open Sys2Proof.Proofs.Frames (frame_of_exec)

/-! ### The meaning (R193) -/

/-- What DRW draws. -/
def drawn (s : State) (x y : Reg) (n : Nibble) : Blit := drawSprite (s.getV x) (s.getV y) (s.spriteRows n) s.fb

/-- The state that DRW answers. -/
def afterDraw (s : State) (x y : Reg) (n : Nibble) : State :=
  ((s.setV regF 0#8).setDisplay (drawn s x y n).1).setV regF (collisionFlag (drawn s x y n).2)

theorem exec_drw (x y : Reg) (n : Nibble) (s : State) : exec (.drw x y n) s = .next (afterDraw s x y n) := rfl

section
variable (s : State) (x y : Reg) (n : Nibble)

theorem length_spriteRows_le : (s.spriteRows n).length ≤ 32 := by rw [s.length_spriteRows]; omega

theorem pixel_afterDraw (px : Fin 64) (py : Fin 32) : (afterDraw s x y n).fb.pixel px py =
    (s.fb.pixel px py ^^ coverBit (s.getV x) (s.getV y) (s.spriteRows n) px py) :=
  pixel_drawSprite _ _ _ (length_spriteRows_le s n) s.fb px py

theorem collided_drawn : (drawn s x y n).2 = true ↔
    ∃ px py, coverBit (s.getV x) (s.getV y) (s.spriteRows n) px py = true ∧ s.fb.pixel px py = true :=
  collided_drawSprite _ _ _ (length_spriteRows_le s n) s.fb

theorem getV_regF_afterDraw : (afterDraw s x y n).getV regF = if (drawn s x y n).2 = true then 1#8 else 0#8 :=
  getV_setV_self _ _ _

theorem getV_regF_afterDraw_eq_one_iff : (afterDraw s x y n).getV regF = 1#8 ↔ (drawn s x y n).2 = true := by
  rw [getV_regF_afterDraw]
  cases (drawn s x y n).2 <;> decide

/-! ### The second draw -/

theorem getV_afterDraw {r : Reg} (h : r ≠ regF) : (afterDraw s x y n).getV r = s.getV r :=
  (frame_of_exec (exec_drw x y n s)).regs r (by simpa [Frames.changes] using h)

theorem spriteRows_afterDraw : (afterDraw s x y n).spriteRows n = s.spriteRows n := rfl

/-- Each pixel is XORed twice with the same bit. -/
theorem fb_afterDraw_afterDraw (hx : x ≠ regF) (hy : y ≠ regF) : (afterDraw (afterDraw s x y n) x y n).fb = s.fb := by
  refine Framebuffer.eq_of_pixel fun px py => ?_
  rw [pixel_afterDraw, pixel_afterDraw, getV_afterDraw s x y n hx, getV_afterDraw s x y n hy, spriteRows_afterDraw,
    Bool.xor_assoc, Bool.xor_self, Bool.xor_false]

theorem collided_second_draw (hx : x ≠ regF) (hy : y ≠ regF) : (drawn (afterDraw s x y n) x y n).2 = true ↔
    ∃ px py, coverBit (s.getV x) (s.getV y) (s.spriteRows n) px py = true ∧ s.fb.pixel px py = false := by
  rw [collided_drawn, getV_afterDraw s x y n hx, getV_afterDraw s x y n hy, spriteRows_afterDraw]
  refine exists₂_congr fun px py => and_congr_right fun hcover => ?_
  rw [pixel_afterDraw, hcover, Bool.xor_true, Bool.not_eq_true']

end

/-! ### The obligations -/

/-- Settles O26, by `pixel_drawSprite` and `collided_drawSprite`. -/
theorem drawXorsSpriteAndReportsCollision : Obligations.DrawXorsSpriteAndReportsCollision := by
  refine ⟨fun _ h => decodeWord_eq_ok_iff.2 (word_n_of_and_F000 h), fun x y n s rows hrows => ?_⟩
  obtain rfl : rows = s.spriteRows n := hrows
  refine ⟨_, exec_drw x y n s, pixel_afterDraw s x y n, ?_, fun hclear => ?_, rfl, frame_of_exec (exec_drw x y n s)⟩
  · rintro ⟨px, py, hset, hcover⟩
    exact (getV_regF_afterDraw_eq_one_iff s x y n).2 ((collided_drawn s x y n).2 ⟨px, py, hcover, hset⟩)
  · have hnone : ¬ (drawn s x y n).2 = true := fun h => by
      obtain ⟨px, py, hcover, hset⟩ := (collided_drawn s x y n).1 h
      exact Bool.eq_false_iff.1 (hclear px py hset) hcover
    exact (getV_regF_afterDraw s x y n).trans (if_neg hnone)

/-- Settles O27: a column is found again as its offset from the sprite's left edge, and a row from its top. -/
theorem spriteVisitsNoPixelTwice : Obligations.SpriteVisitsNoPixelTwice := by
  intro xc yc r r' c c' hr hr' hc hc' hcol hrow
  have hoff : rowOffset yc (spriteRow yc r) = r := (eq_spriteRow_iff yc _ (by omega)).1 rfl
  have hoff' : colOffset xc (spriteCol xc c) = c := (eq_spriteCol_iff xc _ (by omega)).1 rfl
  exact ⟨hoff.symm.trans ((eq_spriteRow_iff yc _ (by omega)).1 hrow),
    hoff'.symm.trans ((eq_spriteCol_iff xc _ (by omega)).1 hcol)⟩

/-- Settles O28: with x and y other than F both draws have the same coordinates and rows. -/
theorem drawingTwiceRestoresFramebuffer : Obligations.DrawingTwiceRestoresFramebuffer := fun x y n s hx hy =>
  ⟨_, _, exec_drw x y n s, exec_drw x y n _, fb_afterDraw_afterDraw s x y n hx hy,
    (getV_regF_afterDraw_eq_one_iff _ x y n).trans (collided_second_draw s x y n hx hy)⟩

end Sys2Proof.Proofs.Sprites
end

section
/-! SKP and SKNP (45_timers_input.md): under either policy a key skip looks at one key or raises the fault. -/

namespace Sys2Proof.Proofs.KeySkips

open Sys2Proof.Machine Sys2Proof.Proofs.Encoding
open Sys2Proof.Proofs.IndexMemory (word_kk_of_and_F0FF)
open Sys2Proof.Proofs.CallsAndSkips (toNat_pc_skipIf)
open Sys2Proof.Proofs.Frames (frame_skipIf frame_raise)

/-! ### The meanings (R213, R214, R216) -/

theorem exec_skp (x : Reg) (s : State) : exec (.skp x) s = .next (s.skipOnKey x true) := rfl

theorem exec_sknp (x : Reg) (s : State) : exec (.sknp x) s = .next (s.skipOnKey x false) := rfl

/-- The key of a skip is the low nibble of Vx (D7). -/
theorem skipOnKey_eq_skipIf {s : State} {x k : Reg} (h : s.params.keyIndexPolicy = .mask ∨ (s.getV x).toNat ≤ 0xF)
    (hk : k.toNat = (s.getV x).toNat % 16) (pressed : Bool) :
    s.skipOnKey x pressed = s.skipIf (s.key k == pressed) := by
  obtain rfl : k = (s.getV x).extractLsb' 0 4 := BitVec.eq_of_toNat_eq hk
  obtain hmask | hle := h
  · exact s.skipOnKey_of_mask x pressed hmask
  · exact s.skipOnKey_of_le x pressed hle

/-! ### The obligations -/

/-- Settles O30: each is one `skipIf` on the key's state. -/
theorem keySkipsFollowKeypad : Obligations.KeySkipsFollowKeypad := by
  refine ⟨fun _ h => decodeWord_eq_ok_iff.2 (word_kk_of_and_F0FF h),
    fun _ h => decodeWord_eq_ok_iff.2 (word_kk_of_and_F0FF h), fun x k s h hk => ?_, fun x k s h hk => ?_⟩
  · refine ⟨_, (exec_skp x s).trans (by rw [skipOnKey_eq_skipIf h hk]), ?_, frame_skipIf s _⟩
    rw [toNat_pc_skipIf, beq_true]
  · refine ⟨_, (exec_sknp x s).trans (by rw [skipOnKey_eq_skipIf h hk]), ?_, frame_skipIf s _⟩
    rw [toNat_pc_skipIf]
    cases s.key k <;> rfl

/-- Settles O31: both instructions are the key skip that raises the fault. -/
theorem keyIndexFaultsUnderFaultPolicy : Obligations.KeyIndexFaultsUnderFaultPolicy := by
  rintro x _ s hp hx (rfl | rfl)
  · exact ⟨_, (exec_skp x s).trans (by rw [s.skipOnKey_of_fault x true hp hx]), rfl, frame_raise s _⟩
  · exact ⟨_, (exec_sknp x s).trans (by rw [s.skipOnKey_of_fault x false hp hx]), rfl, frame_raise s _⟩

end Sys2Proof.Proofs.KeySkips
end

section
/-! What a cycle answers and reports (40_cycle.md): the wait poll, the halted and the blocked core, an unknown opcode,
an executed instruction, a stack overflow, and the draw that only RND reads. -/

namespace Sys2Proof.Proofs.CycleReports

open Sys2Proof.Machine
open Sys2Proof.Proofs.ControlFlow (frame_setPc exec_ret_of_stack_nil exec_ret_of_stack_append)
open Sys2Proof.Proofs.RegisterAlu (getV_setV_self)
open Sys2Proof.Proofs.OpcodeTable (row_matches_of_decodeWord)
open Sys2Proof.Proofs.Frames (exec_ret_cases exec_call_cases exec_call_of_lt exec_call_of_full)

/-! ### The report of each branch of R100 -/

section
variable {s t : State}

theorem cycleReport_halted (h : s.fault ≠ .none) : s.cycleReport t = .halted := by rw [State.cycleReport, if_neg h]

theorem cycleReport_keyLatched {r k : Reg} (hf : s.fault = .none) (hw : s.wait = .waiting r)
    (hk : s.firstPressed = some k) : s.cycleReport t = .keyLatched k := by
  simp only [State.cycleReport, if_pos hf, hw, hk]

theorem cycleReport_waiting {r : Reg} (hf : s.fault = .none) (hw : s.wait = .waiting r) (hk : s.firstPressed = none) :
    s.cycleReport t = .waiting := by
  simp only [State.cycleReport, if_pos hf, hw, hk]

theorem cycleReport_fetchBlocked (hf : s.fault = .none) (hw : s.wait = .idle) (hp : s.pc = 0xFFF#12) :
    s.cycleReport t = .fetchBlocked := by
  simp only [State.cycleReport, if_pos hf, hw, if_pos (s.fetchBlocked_iff.2 hp)]

theorem cycleReport_unknown {e : DecodeError} (h : s.Running) (he : decodeWord s.fetchWord = .error e) :
    s.cycleReport t = .unknown s.fetchWord := by
  obtain ⟨hf, hw, hp⟩ := h
  simp only [State.cycleReport, if_pos hf, hw, if_neg (mt s.fetchBlocked_iff.1 hp), he]

end

/-! ### The step and the draw slot -/

theorem firstPressed_setDraw (s : State) (d : Option Byte) : (s.setDraw d).firstPressed = s.firstPressed := rfl

theorem poll_setDraw (s : State) (d : Option Byte) (r : Reg) : (s.setDraw d).poll r = (s.poll r).setDraw d := by
  rw [State.poll, State.poll, firstPressed_setDraw]
  cases s.firstPressed <;> rfl

theorem skipOnKey_setDraw (s : State) (d : Option Byte) (x : Reg) (pressed : Bool) :
    (s.setDraw d).skipOnKey x pressed = (s.skipOnKey x pressed).setDraw d := by
  rw [State.skipOnKey, State.skipOnKey, State.setDraw_params, State.setDraw_getV]
  cases keyIndex s.params.keyIndexPolicy (s.getV x) with
  | some k => exact s.skipIf_setDraw d _
  | none => rfl

/-- Every instruction but RND passes the draw slot on as it found it (R100). -/
theorem exec_setDraw {i : Instr} {s t : State} (d : Option Byte) (hi : ∀ x kk, i ≠ .rnd x kk) (h : exec i s = .next t) :
    exec i (s.setDraw d) = .next (t.setDraw d) := by
  cases i
  case rnd x kk => exact absurd rfl (hi x kk)
  case ret =>
    obtain ⟨hnil, rfl⟩ | ⟨below, a, hstack, rfl⟩ := exec_ret_cases h
    · exact exec_ret_of_stack_nil (s := t.setDraw d) hnil
    · exact exec_ret_of_stack_append (s := s.setDraw d) hstack
  case call nnn =>
    obtain ⟨hlt, rfl⟩ | ⟨hfull, rfl⟩ := exec_call_cases h
    · exact exec_call_of_lt (s := s.setDraw d) hlt nnn
    · exact exec_call_of_full (s := s.setDraw d) hfull nnn
  case seImm | sneImm | seReg | sneReg => cases h; exact congrArg _ (s.skipIf_setDraw d _)
  case skp | sknp => cases h; exact congrArg _ (skipOnKey_setDraw s d _ _)
  case storeRegs x =>
    cases h
    rw [exec, execStoreRegs, s.memAfterStores_setDraw]
    exact congrArg _ (State.autoIncrement_setDraw (s.setMem _) d x)
  case loadRegs x =>
    cases h
    rw [exec, execLoadRegs, s.afterLoads_setDraw]
    exact congrArg _ (State.autoIncrement_setDraw _ d x)
  all_goals cases h; rfl

theorem step_setDraw {s t : State} (d : Option Byte) (hrnd : ∀ x kk, ¬ s.Executes (.rnd x kk)) (h : step s = .next t) :
    step (s.setDraw d) = .next (t.setDraw d) := by
  obtain ⟨hf | ⟨hf, hw, hp⟩, rfl⟩ | ⟨r, hf, hw, rfl⟩ | ⟨hrun, ⟨e, he⟩, rfl⟩ | ⟨hrun, i, hdec, hexec⟩ := step_cases h
  · exact step_halted (s := t.setDraw d) hf
  · exact step_blocked (s := t.setDraw d) hf hw hp
  · exact (step_waiting (s := s.setDraw d) hf hw).trans (congrArg _ (poll_setDraw s d r))
  · exact (step_running (s := s.setDraw d) hrun).trans (State.dispatch_error he)
  · have hi : ∀ x kk, i ≠ .rnd x kk := fun x kk hi => hrnd x kk ⟨hrun, hi ▸ hdec⟩
    exact (step_running (s := s.setDraw d) hrun).trans ((State.dispatch_ok hdec).trans (exec_setDraw d hi hexec))

/-- The report reads nothing of the state after but its fault, so a cycle that does not run RND answers the step of
its state and the report of it, whatever the draw. -/
theorem cycle_of_step {s t : State} (d : Byte) (hrnd : ∀ x kk, ¬ s.Executes (.rnd x kk)) (h : step s = .next t) :
    cycle d s = .next (s.cycleReport t, t.setDraw none) :=
  cycle_eq (t := t.setDraw (some d)) (step_setDraw (some d) hrnd h)

theorem not_executes_of_not_running {s : State} (h : ¬ s.Running) (x : Reg) (kk : Byte) : ¬ s.Executes (.rnd x kk) :=
  fun hex => h hex.1

theorem not_running_of_waiting {s : State} {r : Reg} (hw : s.wait = .waiting r) : ¬ s.Running := by
  rintro ⟨-, hidle, -⟩
  rw [hw] at hidle; cases hidle

/-! ### Every step answers -/

theorem step_next (s : State) : ∃ t, step s = .next t := by
  by_cases hf : s.fault = .none
  case neg => exact ⟨_, step_halted hf⟩
  cases hw : s.wait with
  | waiting r => exact ⟨_, step_waiting hf hw⟩
  | idle =>
    by_cases hp : s.pc = 0xFFF#12
    · exact ⟨_, step_blocked hf hw hp⟩
    · rw [step_running ⟨hf, hw, hp⟩]
      cases hdec : decodeWord s.fetchWord with
      | ok i => rw [State.dispatch_ok hdec]; exact exec_next i s.skip
      | error e => exact ⟨_, State.dispatch_error hdec⟩

theorem cycle_next (d : Byte) (s : State) : ∃ q, cycle d s = .next q := by
  obtain ⟨t, ht⟩ := step_next (s.setDraw (some d))
  exact ⟨_, cycle_eq ht⟩

/-! ### Cycles that change nothing -/

theorem run_of_step_self {s : State} (h : step s = .next s) (n : Nat) : core.run n s = .next s := by
  induction n with
  | zero => rfl
  | succ n ih =>
    have hstep : core.step s = .next s := h
    simp only [Host.Core.run, hstep, ih]

theorem cycle_halted {s : State} (d : Byte) (h : s.fault ≠ .none) : cycle d s = .next (.halted, s.setDraw none) := by
  rw [cycle_of_step d (not_executes_of_not_running fun hrun => h hrun.1) (step_halted h), cycleReport_halted h]

theorem pc_eq_of_blocked {s : State} (h : 4096 ≤ s.pc.toNat + 1) : s.pc = 0xFFF#12 :=
  BitVec.eq_of_toNat_eq (by simp; omega)

/-! ### The obligations -/

/-- Settles O33: the poll of `poll_of_some` or of `poll_of_none`, with its report. -/
theorem waitPollLatchesLowestKey : Obligations.WaitPollLatchesLowestKey := by
  refine ⟨fun s r k hf hw hk hlow => ?_, fun s r hf hw hnone => ?_⟩
  all_goals have hnot := not_executes_of_not_running (not_running_of_waiting hw)
  · have hstep : step s = .next ((s.setV r (k.setWidth 8)).setWait .idle) := by
      rw [step_waiting hf hw, s.poll_of_some r k hk hlow]
    refine ⟨_, hstep, ?_, rfl, frame_of_parts _ _ _ (by simp +contextual), fun d => ?_⟩
    · rw [State.setWait_getV, getV_setV_self]; exact BitVec.toNat_setWidth_of_le (by decide)
    · rw [cycle_of_step d hnot hstep, cycleReport_keyLatched hf hw ((s.firstPressed_eq_some k).2 ⟨hk, hlow⟩)]
  · have hstep : step s = .next s := by rw [step_waiting hf hw, s.poll_of_none r hnone]
    refine ⟨hstep, fun d => ?_⟩
    rw [cycle_of_step d hnot hstep, cycleReport_waiting hf hw (s.firstPressed_eq_none.2 hnone)]

/-- Settles O35: a word that no row matches does not decode, so the cycle only advances PC. -/
theorem unknownOpcodeOnlyAdvancesPc : Obligations.UnknownOpcodeOnlyAdvancesPc := by
  intro s d hrun hnone
  cases hdec : decodeWord s.fetchWord with
  | ok i =>
    obtain ⟨hrow, hmatch⟩ := row_matches_of_decodeWord hdec
    exact absurd hmatch (hnone _ hrow)
  | error e =>
    have hstep : step s = .next s.skip := (step_running hrun).trans (State.dispatch_error hdec)
    have hnot : ∀ x kk, ¬ s.Executes (.rnd x kk) := fun x kk hex => by rw [hex.2] at hdec; cases hdec
    exact ⟨_, hstep, BitVec.toNat_add s.pc 2#12, frame_setPc s _,
      by rw [cycle_of_step d hnot hstep, cycleReport_unknown hrun hdec]⟩

/-- Settles O36: a step that answers its own state does so any number of times. -/
theorem haltedAndBlockedCyclesChangeNothing : Obligations.HaltedAndBlockedCyclesChangeNothing := by
  refine ⟨fun s n h => run_of_step_self (step_halted h) n, fun s d => cycle_halted d,
    fun s n hf hw hp => run_of_step_self (step_blocked hf hw (pc_eq_of_blocked hp)) n, fun s d hf hw hp => ?_⟩
  have hpc := pc_eq_of_blocked hp
  rw [cycle_of_step d (not_executes_of_not_running fun hrun => hrun.2.2 hpc) (step_blocked hf hw hpc),
    cycleReport_fetchBlocked hf hw hpc]

/-- Settles O37, by `cycle_of_executes`. -/
theorem cycleReportsExecutedInstruction : Obligations.CycleReportsExecutedInstruction := by
  intro s i d hex
  obtain ⟨t, ht⟩ := exec_next i (s.skip.setDraw (some d))
  refine ⟨t, ht, (cycle_of_executes d hex ht).trans ?_⟩
  cases t.fault <;> rfl

/-- Settles O38: the CALL raises the fault and writes nothing else, and a core with a fault is halted. -/
theorem stackOverflowIsCompleteAndHalts : Obligations.StackOverflowIsCompleteAndHalts := by
  intro s nnn d hex hfull
  have hexec : exec (.call nnn) (s.skip.setDraw (some d)) = .next ((s.skip.setDraw (some d)).raise .stackOverflow) :=
    exec_call_of_full (s := s.skip.setDraw (some d)) (Nat.le_of_eq hfull.symm) nnn
  refine ⟨_, cycle_of_executes d hex hexec, BitVec.toNat_add s.pc 2#12, rfl, rfl, rfl, rfl,
    frame_of_parts _ _ _ (by simp), fun e => cycle_halted e ?_⟩
  exact fun h => by cases h

/-- Settles O39. -/
theorem everyStepAnswersNext : Obligations.EveryStepAnswersNext := by
  intro s
  obtain ⟨t, ht⟩ := step_next s
  exact ⟨t, ht, fun d => cycle_next d s⟩

/-- Settles O44: without RND neither the step nor the report reads the draw slot. -/
theorem drawMattersOnlyToRnd : Obligations.DrawMattersOnlyToRnd := by
  intro s d e hrnd
  obtain ⟨t, ht⟩ := step_next s
  rw [cycle_of_step d hrnd ht, cycle_of_step e hrnd ht]

end Sys2Proof.Proofs.CycleReports
end

section
/-! What a step may change (R108, D37) and by which instruction: VF, the host-owned elements, the display and memory,
the fault and the wait state. -/

namespace Sys2Proof.Proofs.StepEffects

open Sys2Proof.Machine
open Sys2Proof.Proofs.Frames

/-! ### The frame of a poll (R217) -/

theorem frame_poll (s : State) (r : Reg) : Frame { regs := [r], wait := true } s (s.poll r) := by
  obtain h | ⟨k, h⟩ := s.poll_cases r
  · rw [h]; exact frame_refl s _
  · rw [h]; exact frame_of_parts _ _ _ (by simp +contextual)

theorem mem_poll (s : State) (r : Reg) : (s.poll r).mem = s.mem := by
  obtain h | ⟨k, h⟩ := s.poll_cases r
  · rw [h]
  · rw [h]; rfl

/-! ### VF (R22) -/

/-- Fx65 loads V0..Vx, so it reaches VF only as FF65. -/
theorem eq_regF_of_mem_loaded {x : Reg} (h : regF ∈ (List.range (x.toNat + 1)).map regOf) : x = regF := by
  obtain ⟨k, hk, hF⟩ := List.mem_map.1 h
  have hk := List.mem_range.1 hk
  have h15 : (regF : Reg).toNat = k := (regOf_eq_iff (by omega) regF).1 hF.symm
  exact BitVec.eq_of_toNat_eq (by simp at h15 ⊢; omega)

/-- The instructions that may write VF: those with a flag side effect, and those whose destination is VF. -/
theorem executes_of_regF_mem_changes {s u : State} {i : Instr} (hex : s.Executes i) (h : regF ∈ (changes u i).regs) :
    (∃ x y, s.Executes (.addReg x y) ∨ s.Executes (.subReg x y) ∨ s.Executes (.subn x y) ∨ s.Executes (.shr x y) ∨
      s.Executes (.shl x y) ∨ ∃ n, s.Executes (.drw x y n)) ∨
    (∃ kk, s.Executes (.ldImm regF kk) ∨ s.Executes (.addImm regF kk) ∨ s.Executes (.rnd regF kk)) ∨
    (∃ y, s.Executes (.ldReg regF y) ∨ s.Executes (.orReg regF y) ∨ s.Executes (.andReg regF y) ∨
      s.Executes (.xorReg regF y)) ∨
    s.Executes (.ldVxDT regF) ∨ s.Executes (.loadRegs regF) := by
  cases i
  case addReg x y => exact .inl ⟨x, y, .inl hex⟩
  case subReg x y => exact .inl ⟨x, y, .inr (.inl hex)⟩
  case subn x y => exact .inl ⟨x, y, .inr (.inr (.inl hex))⟩
  case shr x y => exact .inl ⟨x, y, .inr (.inr (.inr (.inl hex)))⟩
  case shl x y => exact .inl ⟨x, y, .inr (.inr (.inr (.inr (.inl hex))))⟩
  case drw x y n => exact .inl ⟨x, y, .inr (.inr (.inr (.inr (.inr ⟨n, hex⟩))))⟩
  case ldImm x kk => cases List.mem_singleton.1 h; exact .inr (.inl ⟨kk, .inl hex⟩)
  case addImm x kk => cases List.mem_singleton.1 h; exact .inr (.inl ⟨kk, .inr (.inl hex)⟩)
  case rnd x kk => cases List.mem_singleton.1 h; exact .inr (.inl ⟨kk, .inr (.inr hex)⟩)
  case ldReg x y => cases List.mem_singleton.1 h; exact .inr (.inr (.inl ⟨y, .inl hex⟩))
  case orReg x y => cases List.mem_singleton.1 h; exact .inr (.inr (.inl ⟨y, .inr (.inl hex)⟩))
  case andReg x y => cases List.mem_singleton.1 h; exact .inr (.inr (.inl ⟨y, .inr (.inr (.inl hex))⟩))
  case xorReg x y => cases List.mem_singleton.1 h; exact .inr (.inr (.inl ⟨y, .inr (.inr (.inr hex))⟩))
  case ldVxDT x => cases List.mem_singleton.1 h; exact .inr (.inr (.inr (.inl hex)))
  case loadRegs x => cases eq_regF_of_mem_loaded h; exact .inr (.inr (.inr (.inr hex)))
  case call | skp | sknp => rw [changes] at h; split at h <;> cases h
  all_goals cases h

/-! ### The causes of a fault and of the wait state -/

theorem fault_of_exec {i : Instr} {s t : State} (h : exec i s = .next t) (hne : t.fault ≠ s.fault) :
    (t.fault = .stackOverflow ∧ 16 ≤ s.stack.length ∧ ∃ nnn, i = .call nnn) ∨
    (t.fault = .keyIndexOutOfRange ∧ s.params.keyIndexPolicy = .fault ∧
      ∃ x, 0xF < (s.getV x).toNat ∧ (i = .skp x ∨ i = .sknp x)) := by
  have hchanges : (changes s i).fault = true := by
    by_contra hnot
    exact hne ((frame_of_exec h).fault (Bool.eq_false_iff.2 hnot))
  obtain ⟨hfull, nnn, rfl⟩ | ⟨hp, x, hx, hi⟩ := eq_of_changes_fault hchanges
  · cases (exec_call_of_full hfull nnn).symm.trans h
    exact .inl ⟨rfl, hfull, nnn, rfl⟩
  · have ht : t.fault = .keyIndexOutOfRange := by
      obtain rfl | rfl := hi <;> cases h <;> rw [s.skipOnKey_of_fault x _ hp hx] <;> rfl
    exact .inr ⟨ht, hp, x, hx, hi⟩

theorem wait_of_exec {i : Instr} {s t : State} (h : exec i s = .next t) :
    t.wait = s.wait ∨ ∃ r, i = .ldVxK r ∧ t.wait = .waiting r := by
  cases hchanges : (changes s i).wait with
  | false => exact .inl ((frame_of_exec h).wait hchanges)
  | true =>
    obtain ⟨r, rfl⟩ := eq_of_changes_wait hchanges
    cases h
    exact .inr ⟨r, rfl, rfl⟩

theorem display_of_exec {i : Instr} {s t : State} (h : exec i s = .next t) :
    (t.fb = s.fb ∧ t.drawFlag = s.drawFlag) ∨ i = .cls ∨ ∃ x y n, i = .drw x y n := by
  cases hchanges : (changes s i).display with
  | false => exact .inl ⟨(frame_of_exec h).fb hchanges, (frame_of_exec h).drawFlag hchanges⟩
  | true => exact .inr (eq_of_changes_display hchanges)

/-! ### The obligations -/

/-- Settles O41: by its frame a poll or an instruction that changes VF names VF among its registers. -/
theorem onlyFlagInstructionsChangeVf : Obligations.OnlyFlagInstructionsChangeVf := by
  intro s t h hne
  obtain ⟨-, rfl⟩ | ⟨r, -, hw, rfl⟩ | ⟨-, -, rfl⟩ | ⟨hrun, i, hdec, hexec⟩ := step_cases h
  · exact absurd rfl hne
  · have hmem : regF ∈ [r] := by
      by_contra hnot
      exact hne ((frame_poll s r).regs regF hnot)
    cases List.mem_singleton.1 hmem
    exact .inl hw
  · exact absurd rfl hne
  · have hmem : regF ∈ (changes s.skip i).regs := by
      by_contra hnot
      exact hne ((frame_of_exec hexec).regs regF hnot)
    exact .inr (executes_of_regF_mem_changes ⟨hrun, hdec⟩ hmem)

/-- Settles O42: no frame names a host-owned element, and only the named instructions have display or memory in
theirs. -/
theorem cyclesKeepHostOwnedState : Obligations.CyclesKeepHostOwnedState := by
  intro s t h
  obtain ⟨-, rfl⟩ | ⟨r, -, -, rfl⟩ | ⟨-, -, rfl⟩ | ⟨hrun, i, hdec, hexec⟩ := step_cases h
  · exact ⟨rfl, rfl, rfl, rfl, rfl, .inl ⟨rfl, rfl⟩, .inl rfl⟩
  · have hframe := frame_poll s r
    exact ⟨hframe.keys, hframe.shiftQuirk, hframe.memQuirk, hframe.rom, hframe.params,
      .inl ⟨hframe.fb rfl, hframe.drawFlag rfl⟩, .inl (mem_poll s r)⟩
  · exact ⟨rfl, rfl, rfl, rfl, rfl, .inl ⟨rfl, rfl⟩, .inl rfl⟩
  · have hframe := frame_of_exec hexec
    refine ⟨hframe.keys, hframe.shiftQuirk, hframe.memQuirk, hframe.rom, hframe.params, ?_, ?_⟩
    · obtain hsame | rfl | ⟨x, y, n, rfl⟩ := display_of_exec hexec
      · exact .inl hsame
      · exact .inr (.inl ⟨hrun, hdec⟩)
      · exact .inr (.inr ⟨x, y, n, hrun, hdec⟩)
    · obtain hsame | ⟨x, rfl | rfl⟩ := mem_of_exec hexec
      · exact .inl hsame
      · exact .inr ⟨x, .inl ⟨hrun, hdec⟩⟩
      · exact .inr ⟨x, .inr ⟨hrun, hdec⟩⟩

/-- Settles O43: only an executed instruction can set a fault or begin a wait, by `fault_of_exec` and `wait_of_exec`.
-/
theorem faultsAndWaitsHaveOneCause : Obligations.FaultsAndWaitsHaveOneCause := by
  intro s t h
  obtain ⟨-, rfl⟩ | ⟨r, -, hw, rfl⟩ | ⟨-, -, rfl⟩ | ⟨hrun, i, hdec, hexec⟩ := step_cases h
  · exact ⟨fun hne => absurd rfl hne, fun r hr => .inl hr⟩
  · refine ⟨fun hne => absurd ((frame_poll s r).fault rfl) hne, fun q hq => ?_⟩
    obtain hp | ⟨k, hp⟩ := s.poll_cases r <;> rw [hp] at hq
    · exact .inl hq
    · cases hq
  · exact ⟨fun hne => absurd rfl hne, fun r hr => .inl hr⟩
  · refine ⟨fun hne => ?_, fun r hr => ?_⟩
    · obtain ⟨ht, hfull, nnn, rfl⟩ | ⟨ht, hp, x, hx, rfl | rfl⟩ := fault_of_exec hexec hne
      · exact .inl ⟨ht, hfull, nnn, hrun, hdec⟩
      · exact .inr ⟨ht, hp, x, hx, .inl ⟨hrun, hdec⟩⟩
      · exact .inr ⟨ht, hp, x, hx, .inr ⟨hrun, hdec⟩⟩
    · obtain hsame | ⟨x, rfl, hx⟩ := wait_of_exec hexec
      · exact .inl (hsame.symm.trans hr)
      · cases hx.symm.trans hr
        exact .inr ⟨hrun, hdec⟩

end Sys2Proof.Proofs.StepEffects
end

section
/-! Construction, resets and the host's accesses (60_exceptions.md, 70_reset_and_hazards.md): what each leaves in
every element, and that only a reset or a restore ends a halt. -/

namespace Sys2Proof.Proofs.ResetAndHost

open Sys2Proof.Machine
open Sys2Proof.Proofs.CycleReports (cycle_halted)
open Sys2Proof.Proofs.Snapshot (restore_cases)

/-! ### What both resets do outside memory -/

/-- The reset values are in no element that the two resets treat differently. -/
theorem resetValues_with_mem_rom (s : State) (m : Memory) (rom : Option (List Byte)) :
    ResetValues { s.resetCore with mem := m, rom := rom } :=
  let h := resetValues_resetCore s
  ⟨h.regs, h.i, h.pc, h.stack, h.delayTimer, h.soundTimer, h.fb, h.drawFlag, h.wait, h.fault⟩

theorem resetValues_hardReset (s : State) : ResetValues (hardReset s) := resetValues_with_mem_rom s _ none

theorem resetValues_softReset (s : State) : ResetValues (softReset s) := resetValues_with_mem_rom s _ s.rom

theorem resetValues_resetOp (hard : Bool) (s : State) : ResetValues (resetOp hard s) := by
  cases hard
  · exact resetValues_softReset s
  · exact resetValues_hardReset s

theorem keptByReset_resetOp (hard : Bool) (s : State) : KeptByReset s (resetOp hard s) := by
  cases hard <;> exact ⟨rfl, rfl, rfl, rfl⟩

/-! ### Memory after a hard reset (R261) -/

theorem read_hardReset (s : State) {a : Nat} (ha : a < 4096) : (hardReset s).mem.read a =
    if 0x050 ≤ a ∧ a < 0x0A0 then s.params.font.toList.getD (a - 0x050) 0#8 else Memory.read [] a := by
  have hlen : s.params.font.toList.length = 80 := Vector.length_toList
  exact (Memory.read_writeBytes s.params.font.toList [] 0x050 a (by omega) ha).trans (by rw [hlen])

theorem read_nil_of_not_font {a : Nat} (ha : a < 4096) (h : a < 0x050 ∨ 0x0A0 ≤ a) : Memory.read [] a = 0#8 := by
  rw [Memory.read, Nat.mod_eq_of_lt (show a < Config.memSize from ha)]
  exact if_neg fun hfont => by simp only [Config.fontBase, Config.fontSize] at hfont; omega

/-- Bytes that an unlisted address reads as anyway leave no cell. -/
theorem writeBytes_nil_of_background (ws : List Byte) (a : Nat) (hfit : a + ws.length ≤ 4096)
    (h : ∀ k, k < ws.length → ws.getD k 0#8 = Memory.background (a + k)) : Memory.writeBytes [] a ws = [] := by
  induction ws generalizing a with
  | nil => rfl
  | cons w ws ih =>
    simp only [List.length_cons] at hfit h
    have hw : w = Memory.background a := h 0 (by omega)
    have hwrite : Memory.write [] a w = [] := by
      rw [Memory.write, Nat.mod_eq_of_lt (show a < Config.memSize by simp only [Config.memSize]; omega), Memory.store,
        if_pos hw]
      rfl
    rw [Memory.writeBytes, hwrite]
    refine ih (a + 1) (by omega) fun k hk => ?_
    rw [Nat.add_assoc, Nat.add_comm 1 k]
    exact h (k + 1) (by omega)

theorem writeBytes_fontDefault : Memory.writeBytes [] 0x050 fontDefault.toList = [] := by
  refine writeBytes_nil_of_background fontDefault.toList 0x050 (by decide) fun k hk => ?_
  have hk : k < 80 := hk
  rw [Memory.background, if_pos ⟨Nat.le_add_right _ k, by simp only [Config.fontBase, Config.fontSize]; omega⟩,
    Nat.add_sub_cancel_left]
  rfl

/-! ### Memory after a soft reset (R262) -/

theorem read_softReset (s : State) (hrom : s.romBytes.length ≤ 3584) {a : Nat} (ha : a < 4096) :
    (softReset s).mem.read a =
      if 0x200 ≤ a ∧ a < 0x200 + s.romBytes.length then s.romBytes.getD (a - 0x200) 0#8
      else if a < 0x200 then s.mem.read a else 0#8 := by
  refine (Memory.read_writeBytes s.romBytes s.mem.clearProgram 0x200 a (by omega) ha).trans ?_
  rw [Memory.read_clearProgram _ a ha]

/-! ### The obligations -/

/-- Settles O45: of memory only the 80 bytes of FONT are written, onto the empty list. -/
theorem hardResetValues : Obligations.HardResetValues := by
  refine fun s => ⟨resetValues_resetOp true s, keptByReset_resetOp true s, rfl, fun j => ?_, fun a ha hfont => ?_⟩
  · refine (read_hardReset s (by omega)).trans ?_
    rw [if_pos (by omega), Nat.add_sub_cancel_left]
    exact List.getD_eq_getElem _ _ (by simp)
  · refine (read_hardReset s ha).trans ?_
    rw [if_neg (by omega), read_nil_of_not_font ha hfont]

/-- Settles O46: the three clauses of memory are the three cases of `read_softReset`. -/
theorem softResetValues : Obligations.SoftResetValues := by
  refine fun s hrom => ⟨resetValues_resetOp false s, keptByReset_resetOp false s, rfl, fun a ha => ?_, fun j hj => ?_,
    fun a hlo ha => ?_⟩
  · refine (read_softReset s hrom (by omega)).trans ?_
    rw [if_neg (by omega), if_pos ha]
  · refine (read_softReset s hrom (by omega)).trans ?_
    rw [if_pos (by omega), Nat.add_sub_cancel_left]
  · refine (read_softReset s hrom ha).trans ?_
    rw [if_neg (by omega), if_neg (by omega)]

/-- Settles O47: a hard reset writes constants and the parameters, so a second one changes nothing, and the default
font is what an unlisted address reads as. -/
theorem constructionValues : Obligations.ConstructionValues := by
  refine ⟨fun p a b => ⟨rfl, rfl, rfl, fun k => ?_, rfl⟩, ?_⟩
  · simp [construct, hardReset, State.resetCore, State.key]
  · have hmem : construct defaultParams false false =
        { State.reset with mem := Memory.writeBytes [] 0x050 fontDefault.toList } := rfl
    rw [hmem, writeBytes_fontDefault]; rfl

/-- Settles O48: a ROM that fits is the soft reset of the block that retains it. -/
theorem loadRomLoadsOrRejects : Obligations.LoadRomLoadsOrRejects := by
  refine ⟨fun bytes s h => ?_, fun bytes s h => ?_⟩
  · rw [loadRom, if_neg]
    exact fun hfit => Nat.not_le.2 h (of_decide_eq_true hfit)
  · have hload : loadRom bytes s = (.ok, resetOp false (s.retain bytes)) := if_pos (decide_eq_true h)
    have hlen : (s.retain bytes).romBytes.length ≤ 3584 := show bytes.length ≤ 3584 by omega
    obtain ⟨hvalues, ⟨hkeys, hshift, hmemq, hparams⟩, hrom, hlow, hbytes, hzero⟩ :=
      softResetValues (s.retain bytes) hlen
    exact ⟨_, hload, hrom, hvalues, ⟨hkeys, hshift, hmemq, hparams⟩, hbytes, hzero, hlow⟩

/-- Settles O50: each access is one field read or one field written. -/
theorem hostAccessesAreExact : Obligations.HostAccessesAreExact := by
  refine ⟨fun s => ⟨by rw [readFramebuffer, List.length_map, List.length_range], fun px py => ?_⟩,
    fun s k b => ⟨fun j => key_setKey s k j b, rfl⟩, fun s => ⟨rfl, rfl, rfl⟩, fun s a b => rfl⟩
  rw [readFramebuffer, List.getElem?_map, List.getElem?_range (by omega), Option.map_some, Framebuffer.pixelAt_eq]

/-- Settles O51: a cycle of a halted core changes no fault, and of the other operations only these write it. -/
theorem haltEndsOnlyByResetOrRestore : Obligations.HaltEndsOnlyByResetOrRestore := by
  refine ⟨fun c o s q hf h hne => ?_, fun hard s => (resetValues_resetOp hard s).fault⟩
  cases o with
  | reset hard => exact .inl ⟨hard, rfl⟩
  | loadRom bytes => exact .inr (.inl ⟨bytes, rfl⟩)
  | cycle r => rw [HostOp.apply, cycle_halted r hf] at h; cases h; exact absurd rfl hne
  | restore b =>
    obtain ⟨p, t, -, -, hok⟩ | hinvalid := restore_cases c b s
    · rw [HostOp.apply, hok] at h; cases h; exact .inr (.inr ⟨b, rfl, rfl⟩)
    · rw [HostOp.apply, hinvalid] at h; cases h; exact absurd rfl hne
  | tickTimers | setKey | readFramebuffer | takeDrawFlag | setQuirks | snapshot => cases h; exact absurd rfl hne

end Sys2Proof.Proofs.ResetAndHost
end
